-- ==== Sys2Proof/Word.lean ====
section
/-! DEFINITION. The value types and their plainest arithmetic (10_state.md R10; 00_scope.md R7). `u(w)` is `w.toNat` and `s(w)`,
the two's-complement reading of the same 256 bits, is `w.toInt`. -/

namespace Sys2Proof

/-- 8 bits: the unit of the code, of data memory and of call data. -/
abbrev Byte := BitVec 8

/-- The Word of 10_state.md R10: 256 bits. -/
abbrev Word := BitVec 256

/-- `wrap(n) = n mod 2^256` for any integer, with the non-negative remainder (00_scope.md R7). -/
def wrap (n : Int) : Word := BitVec.ofInt 256 n

/-- `wrap` of a natural number (00_scope.md R7). -/
def wrapNat (n : Nat) : Word := BitVec.ofNat 256 n

/-- `ONES = 2^256 - 1`, whose signed reading is `-1` (00_scope.md R7). -/
def ones : Word := BitVec.allOnes 256

/-- `MIN`, bit 255 set only, the most negative signed value (00_scope.md R7). -/
def minWord : Word := BitVec.intMin 256

end Sys2Proof
end

