-- ==== Sys2Proof/Config.lean ====
section
/-! DEFINITION. What is fixed for the hardware (00_scope.md R4). Nothing of this hardware is a free value
(93_implementation_defined.md, end of Part 1), so there is no uninterpreted constant here. -/

namespace Sys2Proof

/-- `STACK_LIMIT`: the most Words the stack holds (00_scope.md R4; 10_state.md R12). -/
def stackLimit : Nat := 1024

/-- `MEM_WORD_BYTES`: the bytes a word access moves (00_scope.md R4; 20_memory.md R34). -/
def memWordBytes : Nat := 32

/-- The value of `MEM_CEILING` in `State.reset`. The spec leaves the parameter open (00_scope.md R4, U3) and its test vectors use
65536 (95_test_vectors.md). DESIGN CHOICE, unsafe: log entry 1. Every statement is about any ceiling. -/
def resetMemCeiling : Nat := 65536

end Sys2Proof
end

