-- ==== Sys2Proof/Machine/Alu.lean ====
section
/-! DEFINITION. The 256-bit ALU as functions of Words: wrap-around and signed arithmetic (40_word_arithmetic.md R71 to R80) and
the bitwise, byte and shift functions (41_compare_bitwise_shift.md R97 to R104). Operands are read as integers, the result is
exact, and `wrap` narrows it at the end. -/

namespace Sys2Proof.Machine

/-- ADD (R71). -/
def addWord (a b : Word) : Word := wrapNat (a.toNat + b.toNat)

/-- SUB (R72). -/
def subWord (a b : Word) : Word := wrap ((a.toNat : Int) - (b.toNat : Int))

/-- MUL (R73). -/
def mulWord (a b : Word) : Word := wrapNat (a.toNat * b.toNat)

/-- DIV (R74): the floor of the exact quotient, and 0 for divisor 0. -/
def divWord (a b : Word) : Word :=
  if b.toNat = 0 then 0 else wrapNat (a.toNat / b.toNat)

/-- MOD (R75): 0 for modulus 0. -/
def modWord (a b : Word) : Word :=
  if b.toNat = 0 then 0 else wrapNat (a.toNat % b.toNat)

/-- `wrap` of a magnitude with a sign. -/
def wrapSigned (negative : Bool) (magnitude : Nat) : Word :=
  if negative then wrap (-(magnitude : Int)) else wrap (magnitude : Int)

/-- SDIV (R76): the quotient of the magnitudes, negative when exactly one operand is. `MIN / ONES` gives `2^255`, which wraps to
`MIN` ("not a separate mechanism"). -/
def sdivWord (a b : Word) : Word :=
  if b.toNat = 0 then 0
  else wrapSigned (decide (a.toInt < 0) != decide (b.toInt < 0)) (a.toInt.natAbs / b.toInt.natAbs)

/-- SMOD (R77): the remainder of the magnitudes, with the sign of the dividend. -/
def smodWord (a b : Word) : Word :=
  if b.toNat = 0 then 0
  else wrapSigned (decide (a.toInt < 0)) (a.toInt.natAbs % b.toInt.natAbs)

/-- ADDMOD (R78): the sum is not reduced before the `mod`. -/
def addmodWord (x y m : Word) : Word :=
  if m.toNat = 0 then 0 else wrapNat ((x.toNat + y.toNat) % m.toNat)

/-- MULMOD (R79): the product is not reduced before the `mod`. -/
def mulmodWord (x y m : Word) : Word :=
  if m.toNat = 0 then 0 else wrapNat ((x.toNat * y.toNat) % m.toNat)

/-- Square and multiply modulo `2^256`, one exponent bit a round: `acc * base ^ exponent` for an exponent of at most `rounds`
bits. -/
def expRounds : (rounds base exponent acc : Nat) → Nat
  | 0, _, _, acc => acc
  | rounds + 1, base, exponent, acc =>
    expRounds rounds (base * base % 2 ^ 256) (exponent / 2)
      (if exponent % 2 = 1 then acc * base % 2 ^ 256 else acc)

/-- EXP (R80), "by modular square-and-multiply". -/
def expWord (x y : Word) : Word := wrapNat (expRounds 256 x.toNat y.toNat 1)

/-- AND, bit for bit (R97). -/
def andWord (a b : Word) : Word := a &&& b

/-- OR, bit for bit (R98). -/
def orWord (a b : Word) : Word := a ||| b

/-- XOR, bit for bit (R99). -/
def xorWord (a b : Word) : Word := a ^^^ b

/-- NOT: `ONES - u(a)` (R100). -/
def notWord (a : Word) : Word := wrap ((ones.toNat : Int) - (a.toNat : Int))

/-- BYTE (R101): byte `i` of `x`, 0 the most significant, and 0 for `i >= 32`. -/
def byteWord (i x : Word) : Word :=
  if i.toNat ≥ 32 then 0 else wrapNat (x.toNat / 2 ^ (8 * (31 - i.toNat)) % 256)

/-- SHL (R102). -/
def shlWord (v n : Word) : Word :=
  if n.toNat ≥ 256 then 0 else wrapNat (v.toNat * 2 ^ n.toNat)

/-- SHR (R103). -/
def shrWord (v n : Word) : Word :=
  if n.toNat ≥ 256 then 0 else wrapNat (v.toNat / 2 ^ n.toNat)

/-- SAR (R104): the floor of `s(v) / 2^u(n)`; from 256 on, the sign bit alone decides. -/
def sarWord (v n : Word) : Word :=
  if n.toNat ≥ 256 then (if v.msb then ones else 0) else wrap (v.toInt.fdiv (2 ^ n.toNat))

end Sys2Proof.Machine
end

