-- ==== Sys2Proof/Syntax.lean ====
section
/-! DEFINITION. The instructions as terms: one constructor for each of the 101 rows of the instruction table
(30_encoding.md R55). Only PUSH1 to PUSH32 have an operand field (R52): the immediate bytes, in code order. The depth of DUP1 to
DUP16 and SWAP1 to SWAP16 is carried by the opcode (R51). -/

namespace Sys2Proof

/-- The instruction set of 30_encoding.md R55. -/
inductive Instr where
  -- Halting: 46_halt.md R151.
  | stop
  -- Word arithmetic: 40_word_arithmetic.md R71 to R80.
  | add
  | mul
  | sub
  | div
  | sdiv
  | mod
  | smod
  | addmod
  | mulmod
  | exp
  -- Comparison, bitwise, byte and shift: 41_compare_bitwise_shift.md R91 to R104.
  | lt
  | gt
  | slt
  | sgt
  | eq
  | iszero
  | and
  | or
  | xor
  | not
  | byte
  | shl
  | shr
  | sar
  -- Context: 45_context.md R141 to R144.
  | callvalue
  | calldataload
  | calldatasize
  | codesize
  -- Stack: 42_stack.md R116.
  | pop
  -- Memory access: 43_memory_access.md R121 to R123.
  | mload
  | mstore
  | mstore8
  -- Control transfer: 44_jump.md R133 to R135.
  | jump
  | jumpi
  | jumpdest
  -- Stack: 42_stack.md R117; the field holds the immediate bytes in code order.
  | push1 (imm : List Byte)
  | push2 (imm : List Byte)
  | push3 (imm : List Byte)
  | push4 (imm : List Byte)
  | push5 (imm : List Byte)
  | push6 (imm : List Byte)
  | push7 (imm : List Byte)
  | push8 (imm : List Byte)
  | push9 (imm : List Byte)
  | push10 (imm : List Byte)
  | push11 (imm : List Byte)
  | push12 (imm : List Byte)
  | push13 (imm : List Byte)
  | push14 (imm : List Byte)
  | push15 (imm : List Byte)
  | push16 (imm : List Byte)
  | push17 (imm : List Byte)
  | push18 (imm : List Byte)
  | push19 (imm : List Byte)
  | push20 (imm : List Byte)
  | push21 (imm : List Byte)
  | push22 (imm : List Byte)
  | push23 (imm : List Byte)
  | push24 (imm : List Byte)
  | push25 (imm : List Byte)
  | push26 (imm : List Byte)
  | push27 (imm : List Byte)
  | push28 (imm : List Byte)
  | push29 (imm : List Byte)
  | push30 (imm : List Byte)
  | push31 (imm : List Byte)
  | push32 (imm : List Byte)
  -- Stack: 42_stack.md R118.
  | dup1
  | dup2
  | dup3
  | dup4
  | dup5
  | dup6
  | dup7
  | dup8
  | dup9
  | dup10
  | dup11
  | dup12
  | dup13
  | dup14
  | dup15
  | dup16
  -- Stack: 42_stack.md R119.
  | swap1
  | swap2
  | swap3
  | swap4
  | swap5
  | swap6
  | swap7
  | swap8
  | swap9
  | swap10
  | swap11
  | swap12
  | swap13
  | swap14
  | swap15
  | swap16
  -- Halting: 46_halt.md R152.
  | revert
deriving DecidableEq, Repr

/-- `some (n, imm)` for PUSHn with the immediate bytes `imm` (42_stack.md R117), `none` for every other instruction. -/
def Instr.pushOperand : Instr → Option (Nat × List Byte)
  | .stop => none
  | .add => none
  | .mul => none
  | .sub => none
  | .div => none
  | .sdiv => none
  | .mod => none
  | .smod => none
  | .addmod => none
  | .mulmod => none
  | .exp => none
  | .lt => none
  | .gt => none
  | .slt => none
  | .sgt => none
  | .eq => none
  | .iszero => none
  | .and => none
  | .or => none
  | .xor => none
  | .not => none
  | .byte => none
  | .shl => none
  | .shr => none
  | .sar => none
  | .callvalue => none
  | .calldataload => none
  | .calldatasize => none
  | .codesize => none
  | .pop => none
  | .mload => none
  | .mstore => none
  | .mstore8 => none
  | .jump => none
  | .jumpi => none
  | .jumpdest => none
  | .push1 imm => some (1, imm)
  | .push2 imm => some (2, imm)
  | .push3 imm => some (3, imm)
  | .push4 imm => some (4, imm)
  | .push5 imm => some (5, imm)
  | .push6 imm => some (6, imm)
  | .push7 imm => some (7, imm)
  | .push8 imm => some (8, imm)
  | .push9 imm => some (9, imm)
  | .push10 imm => some (10, imm)
  | .push11 imm => some (11, imm)
  | .push12 imm => some (12, imm)
  | .push13 imm => some (13, imm)
  | .push14 imm => some (14, imm)
  | .push15 imm => some (15, imm)
  | .push16 imm => some (16, imm)
  | .push17 imm => some (17, imm)
  | .push18 imm => some (18, imm)
  | .push19 imm => some (19, imm)
  | .push20 imm => some (20, imm)
  | .push21 imm => some (21, imm)
  | .push22 imm => some (22, imm)
  | .push23 imm => some (23, imm)
  | .push24 imm => some (24, imm)
  | .push25 imm => some (25, imm)
  | .push26 imm => some (26, imm)
  | .push27 imm => some (27, imm)
  | .push28 imm => some (28, imm)
  | .push29 imm => some (29, imm)
  | .push30 imm => some (30, imm)
  | .push31 imm => some (31, imm)
  | .push32 imm => some (32, imm)
  | .dup1 => none
  | .dup2 => none
  | .dup3 => none
  | .dup4 => none
  | .dup5 => none
  | .dup6 => none
  | .dup7 => none
  | .dup8 => none
  | .dup9 => none
  | .dup10 => none
  | .dup11 => none
  | .dup12 => none
  | .dup13 => none
  | .dup14 => none
  | .dup15 => none
  | .dup16 => none
  | .swap1 => none
  | .swap2 => none
  | .swap3 => none
  | .swap4 => none
  | .swap5 => none
  | .swap6 => none
  | .swap7 => none
  | .swap8 => none
  | .swap9 => none
  | .swap10 => none
  | .swap11 => none
  | .swap12 => none
  | .swap13 => none
  | .swap14 => none
  | .swap15 => none
  | .swap16 => none
  | .revert => none

/-- `some n` for DUPn (42_stack.md R118), `none` for every other instruction. -/
def Instr.dupIndex : Instr → Option Nat
  | .stop => none
  | .add => none
  | .mul => none
  | .sub => none
  | .div => none
  | .sdiv => none
  | .mod => none
  | .smod => none
  | .addmod => none
  | .mulmod => none
  | .exp => none
  | .lt => none
  | .gt => none
  | .slt => none
  | .sgt => none
  | .eq => none
  | .iszero => none
  | .and => none
  | .or => none
  | .xor => none
  | .not => none
  | .byte => none
  | .shl => none
  | .shr => none
  | .sar => none
  | .callvalue => none
  | .calldataload => none
  | .calldatasize => none
  | .codesize => none
  | .pop => none
  | .mload => none
  | .mstore => none
  | .mstore8 => none
  | .jump => none
  | .jumpi => none
  | .jumpdest => none
  | .push1 _ => none
  | .push2 _ => none
  | .push3 _ => none
  | .push4 _ => none
  | .push5 _ => none
  | .push6 _ => none
  | .push7 _ => none
  | .push8 _ => none
  | .push9 _ => none
  | .push10 _ => none
  | .push11 _ => none
  | .push12 _ => none
  | .push13 _ => none
  | .push14 _ => none
  | .push15 _ => none
  | .push16 _ => none
  | .push17 _ => none
  | .push18 _ => none
  | .push19 _ => none
  | .push20 _ => none
  | .push21 _ => none
  | .push22 _ => none
  | .push23 _ => none
  | .push24 _ => none
  | .push25 _ => none
  | .push26 _ => none
  | .push27 _ => none
  | .push28 _ => none
  | .push29 _ => none
  | .push30 _ => none
  | .push31 _ => none
  | .push32 _ => none
  | .dup1 => some 1
  | .dup2 => some 2
  | .dup3 => some 3
  | .dup4 => some 4
  | .dup5 => some 5
  | .dup6 => some 6
  | .dup7 => some 7
  | .dup8 => some 8
  | .dup9 => some 9
  | .dup10 => some 10
  | .dup11 => some 11
  | .dup12 => some 12
  | .dup13 => some 13
  | .dup14 => some 14
  | .dup15 => some 15
  | .dup16 => some 16
  | .swap1 => none
  | .swap2 => none
  | .swap3 => none
  | .swap4 => none
  | .swap5 => none
  | .swap6 => none
  | .swap7 => none
  | .swap8 => none
  | .swap9 => none
  | .swap10 => none
  | .swap11 => none
  | .swap12 => none
  | .swap13 => none
  | .swap14 => none
  | .swap15 => none
  | .swap16 => none
  | .revert => none

/-- `some n` for SWAPn (42_stack.md R119), `none` for every other instruction. -/
def Instr.swapIndex : Instr → Option Nat
  | .stop => none
  | .add => none
  | .mul => none
  | .sub => none
  | .div => none
  | .sdiv => none
  | .mod => none
  | .smod => none
  | .addmod => none
  | .mulmod => none
  | .exp => none
  | .lt => none
  | .gt => none
  | .slt => none
  | .sgt => none
  | .eq => none
  | .iszero => none
  | .and => none
  | .or => none
  | .xor => none
  | .not => none
  | .byte => none
  | .shl => none
  | .shr => none
  | .sar => none
  | .callvalue => none
  | .calldataload => none
  | .calldatasize => none
  | .codesize => none
  | .pop => none
  | .mload => none
  | .mstore => none
  | .mstore8 => none
  | .jump => none
  | .jumpi => none
  | .jumpdest => none
  | .push1 _ => none
  | .push2 _ => none
  | .push3 _ => none
  | .push4 _ => none
  | .push5 _ => none
  | .push6 _ => none
  | .push7 _ => none
  | .push8 _ => none
  | .push9 _ => none
  | .push10 _ => none
  | .push11 _ => none
  | .push12 _ => none
  | .push13 _ => none
  | .push14 _ => none
  | .push15 _ => none
  | .push16 _ => none
  | .push17 _ => none
  | .push18 _ => none
  | .push19 _ => none
  | .push20 _ => none
  | .push21 _ => none
  | .push22 _ => none
  | .push23 _ => none
  | .push24 _ => none
  | .push25 _ => none
  | .push26 _ => none
  | .push27 _ => none
  | .push28 _ => none
  | .push29 _ => none
  | .push30 _ => none
  | .push31 _ => none
  | .push32 _ => none
  | .dup1 => none
  | .dup2 => none
  | .dup3 => none
  | .dup4 => none
  | .dup5 => none
  | .dup6 => none
  | .dup7 => none
  | .dup8 => none
  | .dup9 => none
  | .dup10 => none
  | .dup11 => none
  | .dup12 => none
  | .dup13 => none
  | .dup14 => none
  | .dup15 => none
  | .dup16 => none
  | .swap1 => some 1
  | .swap2 => some 2
  | .swap3 => some 3
  | .swap4 => some 4
  | .swap5 => some 5
  | .swap6 => some 6
  | .swap7 => some 7
  | .swap8 => some 8
  | .swap9 => some 9
  | .swap10 => some 10
  | .swap11 => some 11
  | .swap12 => some 12
  | .swap13 => some 13
  | .swap14 => some 14
  | .swap15 => some 15
  | .swap16 => some 16
  | .revert => none

end Sys2Proof
end

