-- ==== Sys2Proof/WellFormed.lean ====
section
/-! DEFINITION. Well-formed instructions: the immediate of PUSHn has exactly `n` bytes (30_encoding.md R50, R52). No other
instruction has a field to check. -/

namespace Sys2Proof

/-- The immediate bytes of PUSHn number exactly `n`, `n` in 1 to 32 (30_encoding.md R52). -/
def Instr.wellFormed : Instr → Bool
  | .stop => true
  | .add => true
  | .mul => true
  | .sub => true
  | .div => true
  | .sdiv => true
  | .mod => true
  | .smod => true
  | .addmod => true
  | .mulmod => true
  | .exp => true
  | .lt => true
  | .gt => true
  | .slt => true
  | .sgt => true
  | .eq => true
  | .iszero => true
  | .and => true
  | .or => true
  | .xor => true
  | .not => true
  | .byte => true
  | .shl => true
  | .shr => true
  | .sar => true
  | .callvalue => true
  | .calldataload => true
  | .calldatasize => true
  | .codesize => true
  | .pop => true
  | .mload => true
  | .mstore => true
  | .mstore8 => true
  | .jump => true
  | .jumpi => true
  | .jumpdest => true
  | .push1 imm => imm.length == 1
  | .push2 imm => imm.length == 2
  | .push3 imm => imm.length == 3
  | .push4 imm => imm.length == 4
  | .push5 imm => imm.length == 5
  | .push6 imm => imm.length == 6
  | .push7 imm => imm.length == 7
  | .push8 imm => imm.length == 8
  | .push9 imm => imm.length == 9
  | .push10 imm => imm.length == 10
  | .push11 imm => imm.length == 11
  | .push12 imm => imm.length == 12
  | .push13 imm => imm.length == 13
  | .push14 imm => imm.length == 14
  | .push15 imm => imm.length == 15
  | .push16 imm => imm.length == 16
  | .push17 imm => imm.length == 17
  | .push18 imm => imm.length == 18
  | .push19 imm => imm.length == 19
  | .push20 imm => imm.length == 20
  | .push21 imm => imm.length == 21
  | .push22 imm => imm.length == 22
  | .push23 imm => imm.length == 23
  | .push24 imm => imm.length == 24
  | .push25 imm => imm.length == 25
  | .push26 imm => imm.length == 26
  | .push27 imm => imm.length == 27
  | .push28 imm => imm.length == 28
  | .push29 imm => imm.length == 29
  | .push30 imm => imm.length == 30
  | .push31 imm => imm.length == 31
  | .push32 imm => imm.length == 32
  | .dup1 => true
  | .dup2 => true
  | .dup3 => true
  | .dup4 => true
  | .dup5 => true
  | .dup6 => true
  | .dup7 => true
  | .dup8 => true
  | .dup9 => true
  | .dup10 => true
  | .dup11 => true
  | .dup12 => true
  | .dup13 => true
  | .dup14 => true
  | .dup15 => true
  | .dup16 => true
  | .swap1 => true
  | .swap2 => true
  | .swap3 => true
  | .swap4 => true
  | .swap5 => true
  | .swap6 => true
  | .swap7 => true
  | .swap8 => true
  | .swap9 => true
  | .swap10 => true
  | .swap11 => true
  | .swap12 => true
  | .swap13 => true
  | .swap14 => true
  | .swap15 => true
  | .swap16 => true
  | .revert => true

end Sys2Proof
end

