-- ==== Sys2Proof/Decode.lean ====
section
/-! DEFINITION. Decoding and encoding, from the opcode map of 30_encoding.md R55. The instruction table is a constant of the
hardware (47_execution_loop.md R160); the opcode byte alone decides the instruction and the length of its immediate (R50, R162). -/

namespace Sys2Proof

/-- An instruction table entry, `imm_len` and the instruction built from the immediate bytes (47_execution_loop.md R160;
90_conflicts.md C4: there is no operand count in it). -/
structure Descriptor where
  immLen : Nat
  build : List Byte → Instr

/-- The entry of an instruction without an immediate: format F0 (30_encoding.md R51). -/
def plainEntry (i : Instr) : Option Descriptor := some { immLen := 0, build := fun _ => i }

/-- The entry of PUSHn: format FP (30_encoding.md R52). -/
def pushEntry (n : Nat) (build : List Byte → Instr) : Option Descriptor := some { immLen := n, build := build }

/-- The instruction table: the 101 entries of 30_encoding.md R55, and `none` for the 155 unassigned bytes of R56. -/
def table (op : Byte) : Option Descriptor :=
  match op with
  | 0x00#8 => plainEntry .stop
  | 0x01#8 => plainEntry .add
  | 0x02#8 => plainEntry .mul
  | 0x03#8 => plainEntry .sub
  | 0x04#8 => plainEntry .div
  | 0x05#8 => plainEntry .sdiv
  | 0x06#8 => plainEntry .mod
  | 0x07#8 => plainEntry .smod
  | 0x08#8 => plainEntry .addmod
  | 0x09#8 => plainEntry .mulmod
  | 0x0A#8 => plainEntry .exp
  | 0x10#8 => plainEntry .lt
  | 0x11#8 => plainEntry .gt
  | 0x12#8 => plainEntry .slt
  | 0x13#8 => plainEntry .sgt
  | 0x14#8 => plainEntry .eq
  | 0x15#8 => plainEntry .iszero
  | 0x16#8 => plainEntry .and
  | 0x17#8 => plainEntry .or
  | 0x18#8 => plainEntry .xor
  | 0x19#8 => plainEntry .not
  | 0x1A#8 => plainEntry .byte
  | 0x1B#8 => plainEntry .shl
  | 0x1C#8 => plainEntry .shr
  | 0x1D#8 => plainEntry .sar
  | 0x34#8 => plainEntry .callvalue
  | 0x35#8 => plainEntry .calldataload
  | 0x36#8 => plainEntry .calldatasize
  | 0x38#8 => plainEntry .codesize
  | 0x50#8 => plainEntry .pop
  | 0x51#8 => plainEntry .mload
  | 0x52#8 => plainEntry .mstore
  | 0x53#8 => plainEntry .mstore8
  | 0x56#8 => plainEntry .jump
  | 0x57#8 => plainEntry .jumpi
  | 0x5B#8 => plainEntry .jumpdest
  | 0x60#8 => pushEntry 1 .push1
  | 0x61#8 => pushEntry 2 .push2
  | 0x62#8 => pushEntry 3 .push3
  | 0x63#8 => pushEntry 4 .push4
  | 0x64#8 => pushEntry 5 .push5
  | 0x65#8 => pushEntry 6 .push6
  | 0x66#8 => pushEntry 7 .push7
  | 0x67#8 => pushEntry 8 .push8
  | 0x68#8 => pushEntry 9 .push9
  | 0x69#8 => pushEntry 10 .push10
  | 0x6A#8 => pushEntry 11 .push11
  | 0x6B#8 => pushEntry 12 .push12
  | 0x6C#8 => pushEntry 13 .push13
  | 0x6D#8 => pushEntry 14 .push14
  | 0x6E#8 => pushEntry 15 .push15
  | 0x6F#8 => pushEntry 16 .push16
  | 0x70#8 => pushEntry 17 .push17
  | 0x71#8 => pushEntry 18 .push18
  | 0x72#8 => pushEntry 19 .push19
  | 0x73#8 => pushEntry 20 .push20
  | 0x74#8 => pushEntry 21 .push21
  | 0x75#8 => pushEntry 22 .push22
  | 0x76#8 => pushEntry 23 .push23
  | 0x77#8 => pushEntry 24 .push24
  | 0x78#8 => pushEntry 25 .push25
  | 0x79#8 => pushEntry 26 .push26
  | 0x7A#8 => pushEntry 27 .push27
  | 0x7B#8 => pushEntry 28 .push28
  | 0x7C#8 => pushEntry 29 .push29
  | 0x7D#8 => pushEntry 30 .push30
  | 0x7E#8 => pushEntry 31 .push31
  | 0x7F#8 => pushEntry 32 .push32
  | 0x80#8 => plainEntry .dup1
  | 0x81#8 => plainEntry .dup2
  | 0x82#8 => plainEntry .dup3
  | 0x83#8 => plainEntry .dup4
  | 0x84#8 => plainEntry .dup5
  | 0x85#8 => plainEntry .dup6
  | 0x86#8 => plainEntry .dup7
  | 0x87#8 => plainEntry .dup8
  | 0x88#8 => plainEntry .dup9
  | 0x89#8 => plainEntry .dup10
  | 0x8A#8 => plainEntry .dup11
  | 0x8B#8 => plainEntry .dup12
  | 0x8C#8 => plainEntry .dup13
  | 0x8D#8 => plainEntry .dup14
  | 0x8E#8 => plainEntry .dup15
  | 0x8F#8 => plainEntry .dup16
  | 0x90#8 => plainEntry .swap1
  | 0x91#8 => plainEntry .swap2
  | 0x92#8 => plainEntry .swap3
  | 0x93#8 => plainEntry .swap4
  | 0x94#8 => plainEntry .swap5
  | 0x95#8 => plainEntry .swap6
  | 0x96#8 => plainEntry .swap7
  | 0x97#8 => plainEntry .swap8
  | 0x98#8 => plainEntry .swap9
  | 0x99#8 => plainEntry .swap10
  | 0x9A#8 => plainEntry .swap11
  | 0x9B#8 => plainEntry .swap12
  | 0x9C#8 => plainEntry .swap13
  | 0x9D#8 => plainEntry .swap14
  | 0x9E#8 => plainEntry .swap15
  | 0x9F#8 => plainEntry .swap16
  | 0xFD#8 => plainEntry .revert
  | _ => none

/-- `imm_len(op)`: 1 to 32 for PUSH1 to PUSH32, 0 for every other byte, the unassigned ones included (30_encoding.md R50, R56;
44_jump.md R131). -/
def immLen (op : Byte) : Nat :=
  match table op with
  | some d => d.immLen
  | none => 0

/-- Why the decoder reads no instruction. -/
inductive Rejection where
  /-- There is no opcode byte to read. -/
  | noOpcode
  /-- The opcode byte has no instruction table entry (30_encoding.md R56). -/
  | unassigned (op : Byte)
deriving DecidableEq, Repr

/-- What the decoder answers: an instruction and the bytes after it, or a rejection by name. -/
inductive Decoded where
  | ok (i : Instr) (rest : List Byte)
  | rejected (why : Rejection)
deriving DecidableEq, Repr

/-- The `n` immediate bytes at the front of `bytes`; a byte past the end reads `0x00` (30_encoding.md R54). -/
def immediateBytes : Nat → List Byte → List Byte
  | 0, _ => []
  | n + 1, [] => 0 :: immediateBytes n []
  | n + 1, b :: bytes => b :: immediateBytes n bytes

/-- The decoder: look the opcode byte up, then take the `imm_len` bytes after it (30_encoding.md R58; 47_execution_loop.md R162). -/
def decode : List Byte → Decoded
  | [] => .rejected .noOpcode
  | op :: bytes =>
    match table op with
    | some d => .ok (d.build (immediateBytes d.immLen bytes)) (bytes.drop d.immLen)
    | none => .rejected (.unassigned op)

/-- The opcode byte of an instruction (30_encoding.md R55). -/
def Instr.opcode : Instr → Byte
  | .stop => 0x00#8
  | .add => 0x01#8
  | .mul => 0x02#8
  | .sub => 0x03#8
  | .div => 0x04#8
  | .sdiv => 0x05#8
  | .mod => 0x06#8
  | .smod => 0x07#8
  | .addmod => 0x08#8
  | .mulmod => 0x09#8
  | .exp => 0x0A#8
  | .lt => 0x10#8
  | .gt => 0x11#8
  | .slt => 0x12#8
  | .sgt => 0x13#8
  | .eq => 0x14#8
  | .iszero => 0x15#8
  | .and => 0x16#8
  | .or => 0x17#8
  | .xor => 0x18#8
  | .not => 0x19#8
  | .byte => 0x1A#8
  | .shl => 0x1B#8
  | .shr => 0x1C#8
  | .sar => 0x1D#8
  | .callvalue => 0x34#8
  | .calldataload => 0x35#8
  | .calldatasize => 0x36#8
  | .codesize => 0x38#8
  | .pop => 0x50#8
  | .mload => 0x51#8
  | .mstore => 0x52#8
  | .mstore8 => 0x53#8
  | .jump => 0x56#8
  | .jumpi => 0x57#8
  | .jumpdest => 0x5B#8
  | .push1 _ => 0x60#8
  | .push2 _ => 0x61#8
  | .push3 _ => 0x62#8
  | .push4 _ => 0x63#8
  | .push5 _ => 0x64#8
  | .push6 _ => 0x65#8
  | .push7 _ => 0x66#8
  | .push8 _ => 0x67#8
  | .push9 _ => 0x68#8
  | .push10 _ => 0x69#8
  | .push11 _ => 0x6A#8
  | .push12 _ => 0x6B#8
  | .push13 _ => 0x6C#8
  | .push14 _ => 0x6D#8
  | .push15 _ => 0x6E#8
  | .push16 _ => 0x6F#8
  | .push17 _ => 0x70#8
  | .push18 _ => 0x71#8
  | .push19 _ => 0x72#8
  | .push20 _ => 0x73#8
  | .push21 _ => 0x74#8
  | .push22 _ => 0x75#8
  | .push23 _ => 0x76#8
  | .push24 _ => 0x77#8
  | .push25 _ => 0x78#8
  | .push26 _ => 0x79#8
  | .push27 _ => 0x7A#8
  | .push28 _ => 0x7B#8
  | .push29 _ => 0x7C#8
  | .push30 _ => 0x7D#8
  | .push31 _ => 0x7E#8
  | .push32 _ => 0x7F#8
  | .dup1 => 0x80#8
  | .dup2 => 0x81#8
  | .dup3 => 0x82#8
  | .dup4 => 0x83#8
  | .dup5 => 0x84#8
  | .dup6 => 0x85#8
  | .dup7 => 0x86#8
  | .dup8 => 0x87#8
  | .dup9 => 0x88#8
  | .dup10 => 0x89#8
  | .dup11 => 0x8A#8
  | .dup12 => 0x8B#8
  | .dup13 => 0x8C#8
  | .dup14 => 0x8D#8
  | .dup15 => 0x8E#8
  | .dup16 => 0x8F#8
  | .swap1 => 0x90#8
  | .swap2 => 0x91#8
  | .swap3 => 0x92#8
  | .swap4 => 0x93#8
  | .swap5 => 0x94#8
  | .swap6 => 0x95#8
  | .swap7 => 0x96#8
  | .swap8 => 0x97#8
  | .swap9 => 0x98#8
  | .swap10 => 0x99#8
  | .swap11 => 0x9A#8
  | .swap12 => 0x9B#8
  | .swap13 => 0x9C#8
  | .swap14 => 0x9D#8
  | .swap15 => 0x9E#8
  | .swap16 => 0x9F#8
  | .revert => 0xFD#8

/-- The immediate bytes of an instruction, in code order (30_encoding.md R52). -/
def Instr.immediate : Instr → List Byte
  | .stop => []
  | .add => []
  | .mul => []
  | .sub => []
  | .div => []
  | .sdiv => []
  | .mod => []
  | .smod => []
  | .addmod => []
  | .mulmod => []
  | .exp => []
  | .lt => []
  | .gt => []
  | .slt => []
  | .sgt => []
  | .eq => []
  | .iszero => []
  | .and => []
  | .or => []
  | .xor => []
  | .not => []
  | .byte => []
  | .shl => []
  | .shr => []
  | .sar => []
  | .callvalue => []
  | .calldataload => []
  | .calldatasize => []
  | .codesize => []
  | .pop => []
  | .mload => []
  | .mstore => []
  | .mstore8 => []
  | .jump => []
  | .jumpi => []
  | .jumpdest => []
  | .push1 imm => imm
  | .push2 imm => imm
  | .push3 imm => imm
  | .push4 imm => imm
  | .push5 imm => imm
  | .push6 imm => imm
  | .push7 imm => imm
  | .push8 imm => imm
  | .push9 imm => imm
  | .push10 imm => imm
  | .push11 imm => imm
  | .push12 imm => imm
  | .push13 imm => imm
  | .push14 imm => imm
  | .push15 imm => imm
  | .push16 imm => imm
  | .push17 imm => imm
  | .push18 imm => imm
  | .push19 imm => imm
  | .push20 imm => imm
  | .push21 imm => imm
  | .push22 imm => imm
  | .push23 imm => imm
  | .push24 imm => imm
  | .push25 imm => imm
  | .push26 imm => imm
  | .push27 imm => imm
  | .push28 imm => imm
  | .push29 imm => imm
  | .push30 imm => imm
  | .push31 imm => imm
  | .push32 imm => imm
  | .dup1 => []
  | .dup2 => []
  | .dup3 => []
  | .dup4 => []
  | .dup5 => []
  | .dup6 => []
  | .dup7 => []
  | .dup8 => []
  | .dup9 => []
  | .dup10 => []
  | .dup11 => []
  | .dup12 => []
  | .dup13 => []
  | .dup14 => []
  | .dup15 => []
  | .dup16 => []
  | .swap1 => []
  | .swap2 => []
  | .swap3 => []
  | .swap4 => []
  | .swap5 => []
  | .swap6 => []
  | .swap7 => []
  | .swap8 => []
  | .swap9 => []
  | .swap10 => []
  | .swap11 => []
  | .swap12 => []
  | .swap13 => []
  | .swap14 => []
  | .swap15 => []
  | .swap16 => []
  | .revert => []

/-- The encoder: the opcode byte, then the immediate bytes (30_encoding.md R50 to R52). -/
def encode (i : Instr) : List Byte := i.opcode :: i.immediate

/-- The longest instruction, PUSH32, in bytes (30_encoding.md R50). -/
def longestInstr : Nat := 33

/-- The `count` lowest bytes of `w`, the least significant first. -/
def bytesLE : (count w : Nat) → List Byte
  | 0, _ => []
  | count + 1, w => BitVec.ofNat 8 w :: bytesLE count (w / 256)

/-- The bytes of the instruction whose `nbits` bits are `w`, as spec/opcode_table.json numbers them (its first byte is bits 7..0),
followed by zero bytes up to the longest instruction. -/
def tableBytes (nbits w : Nat) : List Byte := bytesLE longestInstr (w % 2 ^ nbits)

/-- The instruction the decoder reads from the instruction whose `nbits` bits are `w`, numbered as spec/opcode_table.json
numbers them. -/
def decodeTableWord (nbits w : Nat) : Option Instr :=
  match decode (tableBytes nbits w) with
  | .ok i _ => some i
  | .rejected _ => none

end Sys2Proof
end

