-- ==== Sys2Proof/Machine/Bytes.lean ====
section
/-! DEFINITION. Byte strings and numbers: the primitives `be`, `bytes_be` and `ceil32` of 00_scope.md R8. Big-endian is the byte
order of memory words (20_memory.md R31), of push immediates and of call data (R32). -/

namespace Sys2Proof.Machine

/-- `be(bytes)`: the first byte is the most significant, and `be(empty) = 0` (00_scope.md R8). -/
def be (bytes : List Byte) : Nat := bytes.foldl (fun acc b => 256 * acc + b.toNat) 0

/-- `bytes_be(v, n)`: the `n`-byte big-endian representation of `v mod 2^(8n)` (00_scope.md R8). -/
def bytesBE : (n v : Nat) → List Byte
  | 0, _ => []
  | n + 1, v => BitVec.ofNat 8 (v / 256 ^ n) :: bytesBE n v

/-- The Word a big-endian byte string stands for: `zext_256(be(bytes))` (00_scope.md R8). -/
def wordOfBytes (bytes : List Byte) : Word := wrapNat (be bytes)

/-- `ceil32(n)`: the least multiple of 32 that is at least `n` (00_scope.md R8). -/
def ceil32 (n : Nat) : Nat := 32 * ((n + 31) / 32)

end Sys2Proof.Machine
end

