-- ==== Sys2Proof/Machine/State.lean ====
section
/-! DEFINITION. The state of the machine as plain data (10_state.md), the reasons a step can stop, and the state right after
reset, which is launch (10_state.md R28; 70_reset_and_hazards.md R200). The jump destination set is not stored: it is a pure
function of the code (10_state.md R19; log entry 4). -/

namespace Sys2Proof.Machine

/-- The four states of the execution loop (10_state.md R22). -/
inductive RunState where
  | running
  | haltedNormal
  | haltedRevert
  | faulted
deriving DecidableEq, Repr

/-- The five fault kinds (60_exceptions.md R180). A fault is taken: the machine's next state is Faulted and carries the kind
(60_exceptions.md R186; log entry 6). -/
inductive FaultKind where
  /-- A push when `len = 1024` (R181). -/
  | stackOverflow
  /-- An instruction needs more entries than `len` (R182). -/
  | stackUnderflow
  /-- An access would raise `msize` above `MEM_CEILING` (R183). -/
  | memoryLimitExceeded
  /-- The fetched opcode byte has no instruction table entry (R184). -/
  | invalidOpcode
  /-- The jump target is not in the jump destination set (R185). -/
  | invalidJumpDestination
deriving DecidableEq, Repr

/-- Data memory: the listed bytes, in one canonical form (`Memory.wf`); an unlisted address reads as zero (10_state.md R14). -/
abbrev Memory := List Host.Cell

/-- Everything the spec gives the machine (10_state.md R12 to R24, R26). -/
structure State where
  /-- `run_state` (R22). -/
  runState : RunState
  /-- `pc`, a byte offset into the code (R18). -/
  pc : Nat
  /-- The evaluation stack; the head is `st[0]`, the top (R12). -/
  stack : List Word
  /-- `mem` (R14). -/
  mem : Memory
  /-- `msize`, the high-water mark (R15). -/
  msize : Nat
  /-- `fault_kind` (R23). -/
  faultKind : Option FaultKind
  /-- `output` (R24). -/
  output : Option (List Byte)
  /-- `code`, a launch input no instruction writes (R17). -/
  code : List Byte
  /-- `call_data`, a launch input no instruction writes (R20). -/
  callData : List Byte
  /-- `call_value`, a launch input no instruction writes (R21). -/
  callValue : Word
  /-- `MEM_CEILING`, configured before launch and constant during a run (R26; 00_scope.md R4). -/
  memCeiling : Nat
deriving DecidableEq, Repr

/-- The reasons a step answers no state. -/
inductive Fault where
  /-- Raised by `step` alone, in a terminal state, where "no step exists" (47_execution_loop.md R165, R168). Safe: the machine
  does nothing there either (log entry 3). -/
  | runEnded
deriving DecidableEq, Repr

/-- The reasons an instruction has no meaning. -/
inductive Refusal where
  /-- Raised by an arm of `exec` whose instruction has no meaning yet; no arm of this model does. Safe: the model stops where the
  hardware goes on. -/
  | notModelled (mnemonic : String)
deriving DecidableEq, Repr

/-- What a meaning answers. -/
abbrev Out := Host.Outcome State Fault Refusal

/-- The launch state formed from the arguments of `execute` and the configured ceiling (10_state.md R28; 47_execution_loop.md
R170). -/
def State.launch (memCeiling : Nat) (code callData : List Byte) (callValue : Word) : State where
  runState := .running
  pc := 0
  stack := []
  mem := []
  msize := 0
  faultKind := none
  output := none
  code := code
  callData := callData
  callValue := callValue
  memCeiling := memCeiling

/-- The machine right after reset, with no program loaded: the launch of the empty code with empty call data and call value 0
(log entry 2) under the ceiling `resetMemCeiling` (log entry 1). -/
def State.reset : State := State.launch resetMemCeiling [] [] 0

end Sys2Proof.Machine
end

