-- ==== Sys2Proof/Machine/Memory.lean ====
section
/-! DEFINITION. Data memory as a canonical list: addresses strictly rising, and no listed byte equal to what an unlisted address
reads as. These operations know nothing of growth or of the ceiling (Machine/Ops.lean does). -/

namespace Sys2Proof.Machine

/-- What an unlisted address reads as: "all bytes not yet written read as zero" (10_state.md R14). -/
def unlistedByte : Byte := 0

/-- The byte at an address. -/
def Memory.read : Memory → Nat → Byte
  | [], _ => unlistedByte
  | (a, b) :: rest, x => if x = a then b else Memory.read rest x

/-- The memory without the entries of one address. -/
def Memory.erase (m : Memory) (x : Nat) : Memory := m.filter fun c => c.1 != x

/-- An entry put in its place by address. -/
def Memory.insert (x : Nat) (v : Byte) : Memory → Memory
  | [] => [(x, v)]
  | (a, b) :: rest => if x < a then (x, v) :: (a, b) :: rest else (a, b) :: Memory.insert x v rest

/-- One byte written: writing what an unlisted address reads as removes the entry. -/
def Memory.write (m : Memory) (x : Nat) (v : Byte) : Memory :=
  if v = unlistedByte then m.erase x else Memory.insert x v (m.erase x)

/-- `n` bytes from an address, the first at the address (20_memory.md R36). -/
def Memory.readBytes (m : Memory) : (x n : Nat) → List Byte
  | _, 0 => []
  | x, n + 1 => m.read x :: m.readBytes (x + 1) n

/-- A byte string written from an address on, in address order (20_memory.md R37). -/
def Memory.writeBytes (m : Memory) (x : Nat) : List Byte → Memory
  | [] => m
  | v :: vs => (m.write x v).writeBytes (x + 1) vs

/-- The canonical form: addresses strictly rising, no entry equal to what an unlisted address reads as. -/
def Memory.wf : Memory → Bool
  | [] => true
  | (a, b) :: rest => b != unlistedByte && rest.all (fun c => a < c.1) && Memory.wf rest

end Sys2Proof.Machine
end

