-- ==== Sys2Proof/Machine/Ops.lean ====
section
/-! DEFINITION. The shared operations. An instruction body answers `Except FaultKind State`: the state as the body leaves it, or
the fault kind it raises (47_execution_loop.md R165). `runBody` is the loop's fault catching (R164), and `raise` the ONE
operation that takes a fault (60_exceptions.md R186). There is no return from a fault (60_exceptions.md R188). -/

namespace Sys2Proof.Machine

/-- `raise F`, fault entry (60_exceptions.md R186): the run state becomes Faulted, the kind is recorded, and nothing else of the
state before the step changes. -/
def raise (k : FaultKind) (s : State) : Out :=
  .next { s with runState := .faulted, faultKind := some k }

/-- Fault catching (47_execution_loop.md R164): a body that raises has all its writes discarded. -/
def runBody (s : State) (body : Except FaultKind State) : Out :=
  match body with
  | .ok t => .next t
  | .error k => raise k s

/-! The evaluation stack controller (42_stack.md R110 to R115). -/

/-- `need(k)` (42_stack.md R112). -/
def need (k : Nat) (s : State) : Except FaultKind Unit :=
  if s.stack.length < k then .error .stackUnderflow else .ok ()

/-- `room(k)` (42_stack.md R112). -/
def room (k : Nat) (s : State) : Except FaultKind Unit :=
  if s.stack.length + k > stackLimit then .error .stackOverflow else .ok ()

/-- The stack with one more Word on top, for a push that cannot overflow: after the pops of the same instruction made room, or
after `room` (42_stack.md R112). -/
def place (w : Word) (s : State) : State := { s with stack := w :: s.stack }

/-- `push(w)` (42_stack.md R110). -/
def push (w : Word) (s : State) : Except FaultKind State := do
  room 1 s
  return place w s

/-- `pop()` (42_stack.md R111): the top Word and the state without it. -/
def pop (s : State) : Except FaultKind (Word × State) :=
  match s.stack with
  | [] => .error .stackUnderflow
  | w :: below => .ok (w, { s with stack := below })

/-- `peek(d)`, with `d = 0` the top (42_stack.md R113; 90_conflicts.md C6). -/
def peek (d : Nat) (s : State) : Except FaultKind Word :=
  match s.stack[d]? with
  | some w => .ok w
  | none => .error .stackUnderflow

/-- `duplicate(d)` (42_stack.md R114; 90_conflicts.md C2: one copy). -/
def duplicate (d : Nat) (s : State) : Except FaultKind State := do
  need (d + 1) s
  room 1 s
  let w ← peek d s
  return place w s

/-- `swap(d)` (42_stack.md R115): exchange `st[0]` and `st[d]`. -/
def swap (d : Nat) (s : State) : Except FaultKind State := do
  need (d + 1) s
  let top ← peek 0 s
  let deep ← peek d s
  return { s with stack := (s.stack.set 0 deep).set d top }

/-! Data memory with growth and the ceiling (20_memory.md R35 to R41). -/

/-- `expand(addr, n)` (20_memory.md R35), over the unbounded integers. -/
def expand (addr n : Nat) (s : State) : Except FaultKind State :=
  if n = 0 then .ok s
  else if ceil32 (addr + n) > s.memCeiling then .error .memoryLimitExceeded
  else if ceil32 (addr + n) > s.msize then .ok { s with msize := ceil32 (addr + n) }
  else .ok s

/-- `MemRead(addr, n)` (20_memory.md R36), which is also `read_range` (R41): the bytes and the grown state. -/
def memRead (addr n : Nat) (s : State) : Except FaultKind (List Byte × State) := do
  let grown ← expand addr n s
  return (grown.mem.readBytes addr n, grown)

/-- `MemWrite(addr, n, v)` (20_memory.md R37), `n` being the length of `v`. -/
def memWrite (addr : Nat) (v : List Byte) (s : State) : Except FaultKind State := do
  let grown ← expand addr v.length s
  return { grown with mem := grown.mem.writeBytes addr v }

/-- `load_word(offset)` (20_memory.md R38). -/
def loadWord (offset : Nat) (s : State) : Except FaultKind (Word × State) := do
  let (bytes, grown) ← memRead offset memWordBytes s
  return (wordOfBytes bytes, grown)

/-- `store_word(offset, w)` (20_memory.md R39). -/
def storeWord (offset : Nat) (w : Word) (s : State) : Except FaultKind State :=
  memWrite offset (bytesBE memWordBytes w.toNat) s

/-- `store_byte(offset, b)` (20_memory.md R40). -/
def storeByte (offset : Nat) (b : Byte) (s : State) : Except FaultKind State :=
  memWrite offset [b] s

/-! The program counter and the run state. -/

/-- Advance (47_execution_loop.md R166): the instruction completed without a fault, a halt or a jump. -/
def complete (immLen : Nat) (s : State) : State := { s with pc := s.pc + 1 + immLen }

/-- The two halting outcomes (46_halt.md R150). -/
inductive HaltOutcome where
  | normal
  | reverted
deriving DecidableEq, Repr

/-- The terminal run state of a halting outcome (46_halt.md R150). -/
def haltState : HaltOutcome → RunState
  | .normal => .haltedNormal
  | .reverted => .haltedRevert

/-- `halt(o, out)` (46_halt.md R150): `pc` stays at the halting instruction. -/
def halt (o : HaltOutcome) (out : Option (List Byte)) (s : State) : State :=
  { s with runState := haltState o, output := out }

end Sys2Proof.Machine
end

