-- ==== Sys2Proof/Machine/Operands.lean ====
section
/-! DEFINITION. The operand forms. Every operand is a Word popped from the stack; the first value popped is the rightmost operand
(40_word_arithmetic.md R70; 41_compare_bitwise_shift.md R90). The count is checked before anything is popped (42_stack.md R112). -/

namespace Sys2Proof.Machine

/-- One operand: the top and the state without it. -/
def popOne (s : State) : Except FaultKind (Word × State) := do
  need 1 s
  pop s

/-- Two operands: the top, the second, and the state without them. -/
def popTwo (s : State) : Except FaultKind (Word × Word × State) := do
  need 2 s
  let (top, s₁) ← pop s
  let (second, s₂) ← pop s₁
  return (top, second, s₂)

/-- Three operands: the top, the second, the third, and the state without them. -/
def popThree (s : State) : Except FaultKind (Word × Word × Word × State) := do
  need 3 s
  let (top, s₁) ← pop s
  let (second, s₂) ← pop s₁
  let (third, s₃) ← pop s₂
  return (top, second, third, s₃)

/-- `a <- pop(); push(OP(a))` (41_compare_bitwise_shift.md R90). -/
def unaryOp (op : Word → Word) (s : State) : Out :=
  runBody s do
    let (a, popped) ← popOne s
    return complete 0 (place (op a) popped)

/-- `b <- pop(); a <- pop(); push(OP(a, b))` (40_word_arithmetic.md R70). -/
def binaryOp (op : Word → Word → Word) (s : State) : Out :=
  runBody s do
    let (b, a, popped) ← popTwo s
    return complete 0 (place (op a b) popped)

/-- `m <- pop(); y <- pop(); x <- pop(); push(OP(x, y, m))` (40_word_arithmetic.md R70). -/
def ternaryOp (op : Word → Word → Word → Word) (s : State) : Out :=
  runBody s do
    let (m, y, x, popped) ← popThree s
    return complete 0 (place (op x y m) popped)

/-- `room(1); push(w)` for an instruction that takes nothing from the stack (45_context.md R141; 42_stack.md R117). -/
def pushOp (immLen : Nat) (w : Word) (s : State) : Out :=
  runBody s do
    let pushed ← push w s
    return complete immLen pushed

end Sys2Proof.Machine
end

