-- ==== Sys2Proof/Machine/Arith.lean ====
section
/-! DEFINITION. The word arithmetic instructions (40_word_arithmetic.md). -/

namespace Sys2Proof.Machine

/-- ADD: `a + b` (R71). -/
def execAdd (s : State) : Out := binaryOp addWord s

/-- MUL: `a * b` (R73). -/
def execMul (s : State) : Out := binaryOp mulWord s

/-- SUB: `a - b`, the top being the subtrahend (R72). -/
def execSub (s : State) : Out := binaryOp subWord s

/-- DIV: `a div b`, the top being the divisor (R74). -/
def execDiv (s : State) : Out := binaryOp divWord s

/-- SDIV: the signed quotient (R76). -/
def execSdiv (s : State) : Out := binaryOp sdivWord s

/-- MOD: `a mod b` (R75). -/
def execMod (s : State) : Out := binaryOp modWord s

/-- SMOD: the signed remainder (R77). -/
def execSmod (s : State) : Out := binaryOp smodWord s

/-- ADDMOD: `(x + y) mod m`, the modulus on top (R78). -/
def execAddmod (s : State) : Out := ternaryOp addmodWord s

/-- MULMOD: `(x * y) mod m`, the modulus on top (R79). -/
def execMulmod (s : State) : Out := ternaryOp mulmodWord s

/-- EXP: `x ^ y`, the exponent on top (R80). -/
def execExp (s : State) : Out := binaryOp expWord s

end Sys2Proof.Machine
end

