-- ==== Sys2Proof/Machine/Context.lean ====
section
/-! DEFINITION. The context and introspection instructions (45_context.md). -/

namespace Sys2Proof.Machine

/-- `n` bytes of call data from an offset on; a byte past the end of call data reads zero, and the index does not wrap
(45_context.md R142). -/
def callDataBytes (callData : List Byte) : (i n : Nat) → List Byte
  | _, 0 => []
  | i, n + 1 => (callData[i]?).getD 0 :: callDataBytes callData (i + 1) n

/-- CALLVALUE (R141). -/
def execCallvalue (s : State) : Out := pushOp 0 s.callValue s

/-- CALLDATALOAD (R142). -/
def execCalldataload (s : State) : Out :=
  unaryOp (fun i => wordOfBytes (callDataBytes s.callData i.toNat memWordBytes)) s

/-- CALLDATASIZE (R143). -/
def execCalldatasize (s : State) : Out := pushOp 0 (wrapNat s.callData.length) s

/-- CODESIZE (R144). -/
def execCodesize (s : State) : Out := pushOp 0 (wrapNat s.code.length) s

end Sys2Proof.Machine
end

