-- ==== Sys2Proof/Machine/Halt.lean ====
section
/-! DEFINITION. The halting instructions (46_halt.md). -/

namespace Sys2Proof.Machine

/-- STOP (R151). -/
def execStop (s : State) : Out := runBody s (.ok (halt .normal none s))

/-- REVERT: the offset is on top, the length second; it can fault like any other instruction (R152; 90_conflicts.md C3). -/
def execRevert (s : State) : Out :=
  runBody s do
    let (offset, length, popped) ← popTwo s
    let (out, grown) ← memRead offset.toNat length.toNat popped
    return halt .reverted (some out) grown

end Sys2Proof.Machine
end

