-- ==== Sys2Proof/Machine/Jump.lean ====
section
/-! DEFINITION. The jump-destination validator and the control-transfer instructions (44_jump.md). -/

namespace Sys2Proof.Machine

/-- The opcode byte of JUMPDEST, the jump-target marker (44_jump.md R130). -/
def jumpdestOpcode : Byte := 0x5B

/-- The scan of R131 with its cursor at offset `i`, over the code from there on. `skip` counts the immediate bytes still to be
stepped over uninspected. -/
def analyseFrom : (i skip : Nat) → List Byte → List Nat
  | _, _, [] => []
  | i, skip + 1, _ :: code => analyseFrom (i + 1) skip code
  | i, 0, op :: code =>
    if immLen op > 0 then analyseFrom (i + 1) (immLen op) code
    else if op = jumpdestOpcode then i :: analyseFrom (i + 1) 0 code
    else analyseFrom (i + 1) 0 code

/-- `analyse(code)`: the jump destination set, in rising order (44_jump.md R131). -/
def analyse (code : List Byte) : List Nat := analyseFrom 0 0 code

/-- `is_valid(t)`: the full unsigned value of the Word is a member of the jump destination set (44_jump.md R132). -/
def isValidTarget (code : List Byte) (t : Word) : Bool := (analyse code).contains t.toNat

/-- A jump to a validated destination, after which `pc` is not incremented (44_jump.md R133; 47_execution_loop.md R167). -/
def jumpTo (dest : Word) (s : State) : Except FaultKind State :=
  if isValidTarget s.code dest then .ok { s with pc := dest.toNat } else .error .invalidJumpDestination

/-- JUMP (R133). -/
def execJump (s : State) : Out :=
  runBody s do
    let (dest, popped) ← popOne s
    jumpTo dest popped

/-- JUMPI: the destination is on top, the condition second; the destination of a jump not taken is not validated (R134). -/
def execJumpi (s : State) : Out :=
  runBody s do
    let (dest, cond, popped) ← popTwo s
    if cond.toNat ≠ 0 then jumpTo dest popped else .ok (complete 0 popped)

/-- JUMPDEST: a no-op marker (R135). -/
def execJumpdest (s : State) : Out := runBody s (.ok (complete 0 s))

end Sys2Proof.Machine
end

