-- ==== Sys2Proof/Machine/Flags.lean ====
section
/-! DEFINITION. The hardware has no flags (10_state.md R25): a comparison pushes the Word 1 for true and 0 for false, "never a
native boolean type". These are the computations another machine would make into flags. -/

namespace Sys2Proof.Machine

/-- 1 for true, 0 for false (10_state.md R25; 41_compare_bitwise_shift.md R90). -/
def truthWord (p : Bool) : Word := if p then 1 else 0

/-- LT, unsigned (41_compare_bitwise_shift.md R91). -/
def ltWord (a b : Word) : Word := truthWord (decide (a.toNat < b.toNat))

/-- GT, unsigned (R92). -/
def gtWord (a b : Word) : Word := truthWord (decide (a.toNat > b.toNat))

/-- SLT, signed (R93). -/
def sltWord (a b : Word) : Word := truthWord (decide (a.toInt < b.toInt))

/-- SGT, signed (R94). -/
def sgtWord (a b : Word) : Word := truthWord (decide (a.toInt > b.toInt))

/-- EQ, all 256 bits (R95). -/
def eqWord (a b : Word) : Word := truthWord (decide (a = b))

/-- ISZERO (R96). -/
def iszeroWord (a : Word) : Word := truthWord (decide (a.toNat = 0))

end Sys2Proof.Machine
end

