-- ==== Sys2Proof/Machine/Logic.lean ====
section
/-! DEFINITION. The comparison, bitwise, byte and shift instructions (41_compare_bitwise_shift.md). -/

namespace Sys2Proof.Machine

/-- LT (R91). -/
def execLt (s : State) : Out := binaryOp ltWord s

/-- GT (R92). -/
def execGt (s : State) : Out := binaryOp gtWord s

/-- SLT (R93). -/
def execSlt (s : State) : Out := binaryOp sltWord s

/-- SGT (R94). -/
def execSgt (s : State) : Out := binaryOp sgtWord s

/-- EQ (R95). -/
def execEq (s : State) : Out := binaryOp eqWord s

/-- ISZERO (R96). -/
def execIszero (s : State) : Out := unaryOp iszeroWord s

/-- AND (R97). -/
def execAnd (s : State) : Out := binaryOp andWord s

/-- OR (R98). -/
def execOr (s : State) : Out := binaryOp orWord s

/-- XOR (R99). -/
def execXor (s : State) : Out := binaryOp xorWord s

/-- NOT (R100). -/
def execNot (s : State) : Out := unaryOp notWord s

/-- BYTE: the value is on top, the index second (R101). -/
def execByte (s : State) : Out := binaryOp byteWord s

/-- SHL: the amount is on top, the value second (R102). -/
def execShl (s : State) : Out := binaryOp shlWord s

/-- SHR (R103). -/
def execShr (s : State) : Out := binaryOp shrWord s

/-- SAR (R104). -/
def execSar (s : State) : Out := binaryOp sarWord s

end Sys2Proof.Machine
end

