-- ==== Sys2Proof/Machine/MemAccess.lean ====
section
/-! DEFINITION. The memory access instructions (43_memory_access.md). The effective address is the Word on top, read as unsigned,
with nothing added, scaled or masked (R120). -/

namespace Sys2Proof.Machine

/-- MLOAD (R121). -/
def execMload (s : State) : Out :=
  runBody s do
    let (offset, popped) ← popOne s
    let (w, grown) ← loadWord offset.toNat popped
    return complete 0 (place w grown)

/-- MSTORE: the offset is on top, the Word stored second (R122). -/
def execMstore (s : State) : Out :=
  runBody s do
    let (offset, w, popped) ← popTwo s
    let stored ← storeWord offset.toNat w popped
    return complete 0 stored

/-- MSTORE8: the least significant byte of the second Word is stored (R123). -/
def execMstore8 (s : State) : Out :=
  runBody s do
    let (offset, w, popped) ← popTwo s
    let stored ← storeByte offset.toNat (w.setWidth 8) popped
    return complete 0 stored

end Sys2Proof.Machine
end

