-- ==== Sys2Proof/Machine/Stack.lean ====
section
/-! DEFINITION. The stack instructions: POP, PUSH1 to PUSH32, DUP1 to DUP16, SWAP1 to SWAP16 (42_stack.md R116 to R119). Each
family is one shared operation "parameterized by width or depth" (47_execution_loop.md R160). -/

namespace Sys2Proof.Machine

/-- PUSHn with its immediate bytes (42_stack.md R117): big-endian and zero-extended (30_encoding.md R53); the loop then advances
past the opcode and the `n` immediate bytes. -/
def pushImmediate (n : Nat) (imm : List Byte) (s : State) : Out := pushOp n (wordOfBytes imm) s

/-- DUPn is `duplicate(n - 1)`, here with `d = n - 1` (42_stack.md R118). -/
def dupDepth (d : Nat) (s : State) : Out :=
  runBody s do
    let copied ← duplicate d s
    return complete 0 copied

/-- SWAPn is `swap(n)` (42_stack.md R119). -/
def swapDepth (n : Nat) (s : State) : Out :=
  runBody s do
    let swapped ← swap n s
    return complete 0 swapped

/-- POP (42_stack.md R116). -/
def execPop (s : State) : Out :=
  runBody s do
    let (_, popped) ← popOne s
    return complete 0 popped

/-- PUSH1 (R117). -/
def execPush1 (imm : List Byte) (s : State) : Out := pushImmediate 1 imm s

/-- PUSH2 (R117). -/
def execPush2 (imm : List Byte) (s : State) : Out := pushImmediate 2 imm s

/-- PUSH3 (R117). -/
def execPush3 (imm : List Byte) (s : State) : Out := pushImmediate 3 imm s

/-- PUSH4 (R117). -/
def execPush4 (imm : List Byte) (s : State) : Out := pushImmediate 4 imm s

/-- PUSH5 (R117). -/
def execPush5 (imm : List Byte) (s : State) : Out := pushImmediate 5 imm s

/-- PUSH6 (R117). -/
def execPush6 (imm : List Byte) (s : State) : Out := pushImmediate 6 imm s

/-- PUSH7 (R117). -/
def execPush7 (imm : List Byte) (s : State) : Out := pushImmediate 7 imm s

/-- PUSH8 (R117). -/
def execPush8 (imm : List Byte) (s : State) : Out := pushImmediate 8 imm s

/-- PUSH9 (R117). -/
def execPush9 (imm : List Byte) (s : State) : Out := pushImmediate 9 imm s

/-- PUSH10 (R117). -/
def execPush10 (imm : List Byte) (s : State) : Out := pushImmediate 10 imm s

/-- PUSH11 (R117). -/
def execPush11 (imm : List Byte) (s : State) : Out := pushImmediate 11 imm s

/-- PUSH12 (R117). -/
def execPush12 (imm : List Byte) (s : State) : Out := pushImmediate 12 imm s

/-- PUSH13 (R117). -/
def execPush13 (imm : List Byte) (s : State) : Out := pushImmediate 13 imm s

/-- PUSH14 (R117). -/
def execPush14 (imm : List Byte) (s : State) : Out := pushImmediate 14 imm s

/-- PUSH15 (R117). -/
def execPush15 (imm : List Byte) (s : State) : Out := pushImmediate 15 imm s

/-- PUSH16 (R117). -/
def execPush16 (imm : List Byte) (s : State) : Out := pushImmediate 16 imm s

/-- PUSH17 (R117). -/
def execPush17 (imm : List Byte) (s : State) : Out := pushImmediate 17 imm s

/-- PUSH18 (R117). -/
def execPush18 (imm : List Byte) (s : State) : Out := pushImmediate 18 imm s

/-- PUSH19 (R117). -/
def execPush19 (imm : List Byte) (s : State) : Out := pushImmediate 19 imm s

/-- PUSH20 (R117). -/
def execPush20 (imm : List Byte) (s : State) : Out := pushImmediate 20 imm s

/-- PUSH21 (R117). -/
def execPush21 (imm : List Byte) (s : State) : Out := pushImmediate 21 imm s

/-- PUSH22 (R117). -/
def execPush22 (imm : List Byte) (s : State) : Out := pushImmediate 22 imm s

/-- PUSH23 (R117). -/
def execPush23 (imm : List Byte) (s : State) : Out := pushImmediate 23 imm s

/-- PUSH24 (R117). -/
def execPush24 (imm : List Byte) (s : State) : Out := pushImmediate 24 imm s

/-- PUSH25 (R117). -/
def execPush25 (imm : List Byte) (s : State) : Out := pushImmediate 25 imm s

/-- PUSH26 (R117). -/
def execPush26 (imm : List Byte) (s : State) : Out := pushImmediate 26 imm s

/-- PUSH27 (R117). -/
def execPush27 (imm : List Byte) (s : State) : Out := pushImmediate 27 imm s

/-- PUSH28 (R117). -/
def execPush28 (imm : List Byte) (s : State) : Out := pushImmediate 28 imm s

/-- PUSH29 (R117). -/
def execPush29 (imm : List Byte) (s : State) : Out := pushImmediate 29 imm s

/-- PUSH30 (R117). -/
def execPush30 (imm : List Byte) (s : State) : Out := pushImmediate 30 imm s

/-- PUSH31 (R117). -/
def execPush31 (imm : List Byte) (s : State) : Out := pushImmediate 31 imm s

/-- PUSH32 (R117). -/
def execPush32 (imm : List Byte) (s : State) : Out := pushImmediate 32 imm s

/-- DUP1 (R118). -/
def execDup1 (s : State) : Out := dupDepth 0 s

/-- DUP2 (R118). -/
def execDup2 (s : State) : Out := dupDepth 1 s

/-- DUP3 (R118). -/
def execDup3 (s : State) : Out := dupDepth 2 s

/-- DUP4 (R118). -/
def execDup4 (s : State) : Out := dupDepth 3 s

/-- DUP5 (R118). -/
def execDup5 (s : State) : Out := dupDepth 4 s

/-- DUP6 (R118). -/
def execDup6 (s : State) : Out := dupDepth 5 s

/-- DUP7 (R118). -/
def execDup7 (s : State) : Out := dupDepth 6 s

/-- DUP8 (R118). -/
def execDup8 (s : State) : Out := dupDepth 7 s

/-- DUP9 (R118). -/
def execDup9 (s : State) : Out := dupDepth 8 s

/-- DUP10 (R118). -/
def execDup10 (s : State) : Out := dupDepth 9 s

/-- DUP11 (R118). -/
def execDup11 (s : State) : Out := dupDepth 10 s

/-- DUP12 (R118). -/
def execDup12 (s : State) : Out := dupDepth 11 s

/-- DUP13 (R118). -/
def execDup13 (s : State) : Out := dupDepth 12 s

/-- DUP14 (R118). -/
def execDup14 (s : State) : Out := dupDepth 13 s

/-- DUP15 (R118). -/
def execDup15 (s : State) : Out := dupDepth 14 s

/-- DUP16 (R118). -/
def execDup16 (s : State) : Out := dupDepth 15 s

/-- SWAP1 (R119). -/
def execSwap1 (s : State) : Out := swapDepth 1 s

/-- SWAP2 (R119). -/
def execSwap2 (s : State) : Out := swapDepth 2 s

/-- SWAP3 (R119). -/
def execSwap3 (s : State) : Out := swapDepth 3 s

/-- SWAP4 (R119). -/
def execSwap4 (s : State) : Out := swapDepth 4 s

/-- SWAP5 (R119). -/
def execSwap5 (s : State) : Out := swapDepth 5 s

/-- SWAP6 (R119). -/
def execSwap6 (s : State) : Out := swapDepth 6 s

/-- SWAP7 (R119). -/
def execSwap7 (s : State) : Out := swapDepth 7 s

/-- SWAP8 (R119). -/
def execSwap8 (s : State) : Out := swapDepth 8 s

/-- SWAP9 (R119). -/
def execSwap9 (s : State) : Out := swapDepth 9 s

/-- SWAP10 (R119). -/
def execSwap10 (s : State) : Out := swapDepth 10 s

/-- SWAP11 (R119). -/
def execSwap11 (s : State) : Out := swapDepth 11 s

/-- SWAP12 (R119). -/
def execSwap12 (s : State) : Out := swapDepth 12 s

/-- SWAP13 (R119). -/
def execSwap13 (s : State) : Out := swapDepth 13 s

/-- SWAP14 (R119). -/
def execSwap14 (s : State) : Out := swapDepth 14 s

/-- SWAP15 (R119). -/
def execSwap15 (s : State) : Out := swapDepth 15 s

/-- SWAP16 (R119). -/
def execSwap16 (s : State) : Out := swapDepth 16 s

end Sys2Proof.Machine
end

