-- ==== Sys2Proof/Machine/Fetch.lean ====
section
/-! DEFINITION. Fetching an instruction's bytes (47_execution_loop.md R161), and placing an instruction where the next fetch
reads it. -/

namespace Sys2Proof.Machine

/-- `fetch(pc)`: the byte at `pc`, and the opcode byte of STOP at or past the end of the code (47_execution_loop.md R161). -/
def fetchByte (code : List Byte) (pc : Nat) : Byte :=
  match code[pc]? with
  | some b => b
  | none => Instr.stop.opcode

/-- What the decoder is given at `pc`: the fetched opcode byte, then the code after it (47_execution_loop.md R161;
30_encoding.md R53). -/
def fetchBytes (code : List Byte) (pc : Nat) : List Byte := fetchByte code pc :: code.drop (pc + 1)

/-- The code with `bytes` at offset `pc` on; code that ends before `pc` is filled up with the padding byte `0x00`. -/
def patchCode (code : List Byte) (pc : Nat) (bytes : List Byte) : List Byte :=
  code.take pc ++ List.replicate (pc - code.length) 0 ++ bytes ++ code.drop (pc + bytes.length)

end Sys2Proof.Machine
end

