-- ==== Sys2Proof/Machine/Step.lean ====
section
/-! DEFINITION. The step function (47_execution_loop.md R165). -/

namespace Sys2Proof.Machine

/-- One step (47_execution_loop.md R165): fetch, decode, dispatch. It is defined only in the Running state; in a terminal state
no step exists (R168; log entry 3). -/
def step (s : State) : Host.Outcome State Fault Refusal :=
  match s.runState with
  | .running =>
    match decode (fetchBytes s.code s.pc) with
    | .ok i _ => exec i s
    | .rejected _ => raise .invalidOpcode s
  | .haltedNormal => .fault .runEnded
  | .haltedRevert => .fault .runEnded
  | .faulted => .fault .runEnded

/-- `s` with the instruction whose `nbits` bits are `w` placed in the code where the next step fetches, and Running so that a next
step exists. It stands for the launch that loads a program (log entries 2 and 7). -/
def State.withFetchWord (s : State) (nbits w : Nat) : State :=
  { s with runState := .running, code := patchCode s.code s.pc (tableBytes nbits w) }

end Sys2Proof.Machine
end

