-- ==== Sys2Proof/Machine/Execute.lean ====
section
/-! DEFINITION. The run, the Execution Result and the host's one operation `execute` (47_execution_loop.md R168 to R170;
46_halt.md R150), with the numeric status codes of a hardware register (10_state.md R22; 60_exceptions.md R180). A run need not
end (R169): the fuel lies outside the machine state, and running out of it is no result (log entry 10). -/

namespace Sys2Proof.Machine

/-- The tagged outcome of a run (46_halt.md R150; 47_execution_loop.md R170). -/
inductive RunOutcome where
  | normal
  | reverted
  | faulted (k : FaultKind)
deriving DecidableEq, Repr

/-- What `execute` returns to the host (47_execution_loop.md R170). -/
structure ExecutionResult where
  outcome : RunOutcome
  output : Option (List Byte)
deriving DecidableEq, Repr

/-- The Execution Result of a terminal state (46_halt.md R150), `none` while Running. -/
def State.result (s : State) : Option ExecutionResult :=
  match s.runState, s.faultKind with
  | .running, _ => none
  | .haltedNormal, _ => some { outcome := .normal, output := s.output }
  | .haltedRevert, _ => some { outcome := .reverted, output := s.output }
  | .faulted, some k => some { outcome := .faulted k, output := s.output }
  | .faulted, none => none

/-- At most `fuel` steps, while a step exists (47_execution_loop.md R168, R169). -/
def runFor : (fuel : Nat) → State → State
  | 0, s => s
  | fuel + 1, s =>
    match step s with
    | .next t => runFor fuel t
    | .fault _ => s
    | .refused _ => s

/-- `execute(code, call_data, call_value)` under a configured ceiling (47_execution_loop.md R170), `none` when `fuel` steps do not
reach a terminal state. -/
def execute (fuel memCeiling : Nat) (code callData : List Byte) (callValue : Word) : Option ExecutionResult :=
  (runFor fuel (State.launch memCeiling code callData callValue)).result

/-- The numeric code of `run_state` in a hardware status register (10_state.md R22). -/
def runStateCode : RunState → Nat
  | .running => 0
  | .haltedNormal => 1
  | .haltedRevert => 2
  | .faulted => 3

/-- The numeric code of `fault_kind` in a hardware register, 0 for no fault (60_exceptions.md R180). -/
def faultKindCode : Option FaultKind → Nat
  | none => 0
  | some .stackOverflow => 1
  | some .stackUnderflow => 2
  | some .memoryLimitExceeded => 3
  | some .invalidOpcode => 4
  | some .invalidJumpDestination => 5

end Sys2Proof.Machine
end

