-- ==== Sys2Proof/Safety.lean ====
section
/-! DEFINITION. The terms the statements are made in: the state after a fault, the common shapes of an instruction's rule,
instruction boundaries, and the invariant of a run. They restate the spec's rules and take as little as they can from the
machine's own definitions. -/

namespace Sys2Proof

/-- `k` of `need(k)`: how many stack entries the instruction needs (60_exceptions.md R182). -/
def Instr.needs : Instr → Nat
  | .stop => 0
  | .add => 2
  | .mul => 2
  | .sub => 2
  | .div => 2
  | .sdiv => 2
  | .mod => 2
  | .smod => 2
  | .addmod => 3
  | .mulmod => 3
  | .exp => 2
  | .lt => 2
  | .gt => 2
  | .slt => 2
  | .sgt => 2
  | .eq => 2
  | .iszero => 1
  | .and => 2
  | .or => 2
  | .xor => 2
  | .not => 1
  | .byte => 2
  | .shl => 2
  | .shr => 2
  | .sar => 2
  | .callvalue => 0
  | .calldataload => 1
  | .calldatasize => 0
  | .codesize => 0
  | .pop => 1
  | .mload => 1
  | .mstore => 2
  | .mstore8 => 2
  | .jump => 1
  | .jumpi => 2
  | .jumpdest => 0
  | .push1 _ => 0
  | .push2 _ => 0
  | .push3 _ => 0
  | .push4 _ => 0
  | .push5 _ => 0
  | .push6 _ => 0
  | .push7 _ => 0
  | .push8 _ => 0
  | .push9 _ => 0
  | .push10 _ => 0
  | .push11 _ => 0
  | .push12 _ => 0
  | .push13 _ => 0
  | .push14 _ => 0
  | .push15 _ => 0
  | .push16 _ => 0
  | .push17 _ => 0
  | .push18 _ => 0
  | .push19 _ => 0
  | .push20 _ => 0
  | .push21 _ => 0
  | .push22 _ => 0
  | .push23 _ => 0
  | .push24 _ => 0
  | .push25 _ => 0
  | .push26 _ => 0
  | .push27 _ => 0
  | .push28 _ => 0
  | .push29 _ => 0
  | .push30 _ => 0
  | .push31 _ => 0
  | .push32 _ => 0
  | .dup1 => 1
  | .dup2 => 2
  | .dup3 => 3
  | .dup4 => 4
  | .dup5 => 5
  | .dup6 => 6
  | .dup7 => 7
  | .dup8 => 8
  | .dup9 => 9
  | .dup10 => 10
  | .dup11 => 11
  | .dup12 => 12
  | .dup13 => 13
  | .dup14 => 14
  | .dup15 => 15
  | .dup16 => 16
  | .swap1 => 2
  | .swap2 => 3
  | .swap3 => 4
  | .swap4 => 5
  | .swap5 => 6
  | .swap6 => 7
  | .swap7 => 8
  | .swap8 => 9
  | .swap9 => 10
  | .swap10 => 11
  | .swap11 => 12
  | .swap12 => 13
  | .swap13 => 14
  | .swap14 => 15
  | .swap15 => 16
  | .swap16 => 17
  | .revert => 2

/-- The instructions whose net stack change is positive (60_exceptions.md R181). -/
def Instr.grows : Instr → Bool
  | .stop => false
  | .add => false
  | .mul => false
  | .sub => false
  | .div => false
  | .sdiv => false
  | .mod => false
  | .smod => false
  | .addmod => false
  | .mulmod => false
  | .exp => false
  | .lt => false
  | .gt => false
  | .slt => false
  | .sgt => false
  | .eq => false
  | .iszero => false
  | .and => false
  | .or => false
  | .xor => false
  | .not => false
  | .byte => false
  | .shl => false
  | .shr => false
  | .sar => false
  | .callvalue => true
  | .calldataload => false
  | .calldatasize => true
  | .codesize => true
  | .pop => false
  | .mload => false
  | .mstore => false
  | .mstore8 => false
  | .jump => false
  | .jumpi => false
  | .jumpdest => false
  | .push1 _ => true
  | .push2 _ => true
  | .push3 _ => true
  | .push4 _ => true
  | .push5 _ => true
  | .push6 _ => true
  | .push7 _ => true
  | .push8 _ => true
  | .push9 _ => true
  | .push10 _ => true
  | .push11 _ => true
  | .push12 _ => true
  | .push13 _ => true
  | .push14 _ => true
  | .push15 _ => true
  | .push16 _ => true
  | .push17 _ => true
  | .push18 _ => true
  | .push19 _ => true
  | .push20 _ => true
  | .push21 _ => true
  | .push22 _ => true
  | .push23 _ => true
  | .push24 _ => true
  | .push25 _ => true
  | .push26 _ => true
  | .push27 _ => true
  | .push28 _ => true
  | .push29 _ => true
  | .push30 _ => true
  | .push31 _ => true
  | .push32 _ => true
  | .dup1 => true
  | .dup2 => true
  | .dup3 => true
  | .dup4 => true
  | .dup5 => true
  | .dup6 => true
  | .dup7 => true
  | .dup8 => true
  | .dup9 => true
  | .dup10 => true
  | .dup11 => true
  | .dup12 => true
  | .dup13 => true
  | .dup14 => true
  | .dup15 => true
  | .dup16 => true
  | .swap1 => false
  | .swap2 => false
  | .swap3 => false
  | .swap4 => false
  | .swap5 => false
  | .swap6 => false
  | .swap7 => false
  | .swap8 => false
  | .swap9 => false
  | .swap10 => false
  | .swap11 => false
  | .swap12 => false
  | .swap13 => false
  | .swap14 => false
  | .swap15 => false
  | .swap16 => false
  | .revert => false

namespace Safety

open Sys2Proof.Machine

/-- The Faulted state of 60_exceptions.md R186: everything but the run state and the fault kind is as before the step. -/
def faultState (k : FaultKind) (s : State) : State := { s with runState := .faulted, faultKind := some k }

/-- The instruction at `s` takes the fault `k`. -/
def Raises (i : Instr) (s : State) (k : FaultKind) : Prop := exec i s = .next (faultState k s)

/-- `op` is the one-byte encoding of `i`: format F0 (30_encoding.md R51). -/
def EncodedBy (op : Byte) (i : Instr) : Prop := encode i = [op] ∧ ∀ rest : List Byte, decode (op :: rest) = .ok i rest

/-- The unary shape of 41_compare_bitwise_shift.md R90: one Word popped, a Word with the given relation to it pushed, `pc`
advanced by 1, nothing else changed; StackUnderflow on an empty stack. -/
def UnaryRule (op : Byte) (i : Instr) (result : Word → Word → Prop) : Prop :=
  EncodedBy op i ∧
  (∀ (s : State) (a : Word) (below : List Word), s.stack = a :: below →
    ∃ w, result a w ∧ exec i s = .next { s with stack := w :: below, pc := s.pc + 1 }) ∧
  (∀ s : State, s.stack.length < 1 → Raises i s .stackUnderflow)

/-- The binary shape of 40_word_arithmetic.md R70: the top `b` is the right operand and the entry below it, `a`, the left one; a
Word with the given relation to them is pushed, `pc` advances by 1, nothing else changes; StackUnderflow on fewer than two
entries. -/
def BinaryRule (op : Byte) (i : Instr) (result : Word → Word → Word → Prop) : Prop :=
  EncodedBy op i ∧
  (∀ (s : State) (a b : Word) (below : List Word), s.stack = b :: a :: below →
    ∃ w, result a b w ∧ exec i s = .next { s with stack := w :: below, pc := s.pc + 1 }) ∧
  (∀ s : State, s.stack.length < 2 → Raises i s .stackUnderflow)

/-- The ternary shape of 40_word_arithmetic.md R70: the modulus `m` on top, `y` second, `x` third. -/
def TernaryRule (op : Byte) (i : Instr) (result : Word → Word → Word → Word → Prop) : Prop :=
  EncodedBy op i ∧
  (∀ (s : State) (x y m : Word) (below : List Word), s.stack = m :: y :: x :: below →
    ∃ w, result x y m w ∧ exec i s = .next { s with stack := w :: below, pc := s.pc + 1 }) ∧
  (∀ s : State, s.stack.length < 3 → Raises i s .stackUnderflow)

/-- The shape of an instruction that takes nothing and pushes one Word (45_context.md R141): StackOverflow when the stack is
full. -/
def PushesRule (op : Byte) (i : Instr) (value : State → Word) : Prop :=
  EncodedBy op i ∧
  (∀ s : State, s.stack.length < 1024 →
    exec i s = .next { s with stack := value s :: s.stack, pc := s.pc + 1 }) ∧
  (∀ s : State, 1024 ≤ s.stack.length → Raises i s .stackOverflow)

/-- Byte index `k` of a Word, 0 the most significant: `w[255-8k : 248-8k]` (00_scope.md R7). -/
def byteAt (w : Word) (k : Nat) : Byte := w.extractLsb' (248 - 8 * k) 8

/-- The number a big-endian byte string stands for, as a sum of its digits (00_scope.md R8). -/
def bigEndian : List Byte → Nat
  | [] => 0
  | b :: bytes => b.toNat * 256 ^ bytes.length + bigEndian bytes

/-- The high-water mark that covers `n` bytes at `addr`: the least multiple of 32 that is at least `addr + n` (20_memory.md
R35). -/
def markFor (addr n : Nat) : Nat := 32 * ((addr + n + 31) / 32)

/-- The range of data memory an instruction accesses, from the operands on the stack (43_memory_access.md R121 to R123;
46_halt.md R152); `none` where it accesses none or its operands are not there. -/
def accessOf (i : Instr) (stack : List Word) : Option (Nat × Nat) :=
  if i = .mload then (stack[0]?).map fun offset => (offset.toNat, 32)
  else if i = .mstore ∧ 2 ≤ stack.length then (stack[0]?).map fun offset => (offset.toNat, 32)
  else if i = .mstore8 ∧ 2 ≤ stack.length then (stack[0]?).map fun offset => (offset.toNat, 1)
  else if i = .revert then
    match stack with
    | offset :: length :: _ => some (offset.toNat, length.toNat)
    | _ => none
  else none

/-- The 155 unassigned opcode bytes, as the ranges 30_encoding.md R56 lists. -/
def unassignedByte (op : Byte) : Bool :=
  let n := op.toNat
  (0x0B ≤ n && n ≤ 0x0F) || (0x1E ≤ n && n ≤ 0x33) || n == 0x37 || (0x39 ≤ n && n ≤ 0x4F) || (0x54 ≤ n && n ≤ 0x55) ||
    (0x58 ≤ n && n ≤ 0x5A) || (0x5C ≤ n && n ≤ 0x5F) || (0xA0 ≤ n && n ≤ 0xFC) || (0xFE ≤ n && n ≤ 0xFF)

/-- `imm_len` by the opcode's number: `n = byte - 0x5F` for 0x60 to 0x7F, 0 for every other byte (30_encoding.md R55). -/
def pushWidth (op : Byte) : Nat := if 0x60 ≤ op.toNat ∧ op.toNat ≤ 0x7F then op.toNat - 0x5F else 0

/-- An offset "reachable as the start of an instruction": a cursor position of the left-to-right scan from offset 0
(44_jump.md R131; 30_encoding.md R58). -/
inductive Boundary (code : List Byte) : Nat → Prop where
  | entry : Boundary code 0
  | next (i : Nat) (op : Byte) (here : Boundary code i) (byte : code[i]? = some op) : Boundary code (i + 1 + pushWidth op)

/-- What holds throughout a run: the stack is bounded (10_state.md R12); memory is in its canonical form; the high-water mark is a
multiple of 32 (R15), within the ceiling, and covers every byte that is not zero (R16); `fault_kind` is recorded exactly when
Faulted (R23) and `output` is present exactly after REVERT (R24); `pc` is an instruction boundary (30_encoding.md R58) and at most
`code_len + 32` (R18). -/
structure RunInv (s : State) : Prop where
  stack_le : s.stack.length ≤ 1024
  mem_wf : s.mem.wf = true
  msize_aligned : s.msize % 32 = 0
  msize_le : s.msize ≤ s.memCeiling
  mem_above : ∀ a, s.msize ≤ a → s.mem.read a = 0
  fault_iff : s.runState = .faulted ↔ s.faultKind ≠ none
  output_iff : s.runState = .haltedRevert ↔ s.output ≠ none
  boundary : Boundary s.code s.pc
  pc_le : s.pc ≤ s.code.length + 32

end Safety

end Sys2Proof
end

