-- ==== Sys2Proof/Certificates/Slice0/Obligations.lean ====
section
/-! DEFINITION. The statements for the provers, in the order of the spec's files. A docstring names the rule a statement
formalises and, where that rule rests on one of the spec's own decisions (92_eei_decisions.md; log entry 14), the decision. Opcode
bytes are decision D1 throughout; decision D11 is both that a fault leaves the rest of the state untouched and that `pc` stays at
the halting instruction; that POP, MLOAD, MSTORE and MSTORE8 are opcodes at all is decision D2. -/

open Sys2Proof Sys2Proof.Machine Sys2Proof.Safety

/-! State and reset. -/

/-- 10_state.md R28: the launch state, for every choice of the arguments of `execute` and of the ceiling. That `msize` is 0 is a row
R28 marks as derived; the last clause is R28's `jds` row for a set that the model computes from the code instead of storing (log
entry 4). -/
def Obligations.LaunchStateValues : Prop :=
  ∀ (ceiling : Nat) (code callData : List Byte) (callValue : Word),
    let s := State.launch ceiling code callData callValue
    s.runState = .running ∧ s.pc = 0 ∧ s.stack = [] ∧ (∀ a, s.mem.read a = 0) ∧ s.msize = 0 ∧ s.faultKind = none ∧
      s.output = none ∧ s.code = code ∧ s.callData = callData ∧ s.callValue = callValue ∧ s.memCeiling = ceiling ∧
      ∀ dest : Word, isValidTarget s.code dest = true ↔ dest.toNat ∈ analyse code

/-- Every launch state meets the invariant `RunInv`. -/
def Obligations.LaunchMeetsInvariant : Prop :=
  ∀ (ceiling : Nat) (code callData : List Byte) (callValue : Word), RunInv (State.launch ceiling code callData callValue)

/-- `State.reset` meets the invariant. Its empty code, empty call data and call value 0 (log entry 2) and its ceiling 65536 (log
entry 1) are the model's choices; nothing here depends on which they are. -/
def Obligations.ResetMeetsInvariant : Prop := RunInv State.reset

/-- Every step keeps the invariant: the bounds of 10_state.md R12, R15, R16, R18, R23, R24, the canonical form of memory, and the
instruction boundary of 30_encoding.md R58. R16 and R58 are inferences the spec marks as derived. -/
def Obligations.StepKeepsInvariant : Prop :=
  ∀ s t : State, RunInv s → step s = .next t → RunInv t

/-- What a run leaves from every launch meets the invariant, however many steps it takes. -/
def Obligations.RunsMeetInvariant : Prop :=
  ∀ (fuel ceiling : Nat) (code callData : List Byte) (callValue : Word),
    RunInv (runFor fuel (State.launch ceiling code callData callValue))

/-- No step changes the code (10_state.md R17), the call data (R20), the call value (R21) or the ceiling (R26). -/
def Obligations.LaunchInputsNeverChange : Prop :=
  ∀ s t : State, step s = .next t →
    t.code = s.code ∧ t.callData = s.callData ∧ t.callValue = s.callValue ∧ t.memCeiling = s.memCeiling

/-- Memory is written only by MSTORE (0x52) and MSTORE8 (0x53) (10_state.md R14), the high-water mark changes only by those, MLOAD
(0x51) and REVERT (0xFD) and never falls (R15, R16), and the output changes only by STOP and REVERT (R24). -/
def Obligations.OnlyTheNamedInstructionsWrite : Prop :=
  ∀ s t : State, step s = .next t →
    (s.code[s.pc]? ≠ some 0x52 → s.code[s.pc]? ≠ some 0x53 → t.mem = s.mem) ∧
    (s.code[s.pc]? ≠ some 0x51 → s.code[s.pc]? ≠ some 0x52 → s.code[s.pc]? ≠ some 0x53 → s.code[s.pc]? ≠ some 0xFD →
      t.msize = s.msize) ∧
    s.msize ≤ t.msize ∧
    (s.pc < s.code.length → s.code[s.pc]? ≠ some 0x00 → s.code[s.pc]? ≠ some 0xFD → t.output = s.output)

/-- Two memories in the canonical form that read alike at every address are the same memory. The canonical form is the model's own
representation of 10_state.md R14's total function. -/
def Obligations.MemoryFormIsCanonical : Prop :=
  ∀ m₁ m₂ : Memory, m₁.wf = true → m₂.wf = true → (∀ a, m₁.read a = m₂.read a) → m₁ = m₂

/-! Encoding. -/

/-- The decoder reads back every well-formed instruction the encoder writes, with every operand, whatever bytes follow. -/
def Obligations.DecodeOfEncode : Prop :=
  ∀ (i : Instr) (rest : List Byte), i.wellFormed = true → decode (encode i ++ rest) = .ok i rest

/-- What the decoder reads: a well-formed instruction whose opcode byte is the byte read and whose immediate bytes are the bytes
after it, `0x00` past the end (30_encoding.md R53, R54); where the bytes are all there, the encoder writes them back. -/
def Obligations.EncodeOfDecode : Prop :=
  ∀ (op : Byte) (bytes rest : List Byte) (i : Instr), decode (op :: bytes) = .ok i rest →
    i.wellFormed = true ∧ i.opcode = op ∧
    i.immediate = (List.range (pushWidth op)).map (fun k => (bytes[k]?).getD 0) ∧
    rest = bytes.drop (pushWidth op) ∧
    (pushWidth op ≤ bytes.length → op :: bytes = encode i ++ rest)

/-- The decoder rejects exactly the 155 bytes of 30_encoding.md R56, by name, and each of them is a one-byte instruction that is no
jump-target marker for the jump analysis. -/
def Obligations.UnassignedBytesAreRejected : Prop :=
  (∀ (op : Byte) (bytes : List Byte),
    decode (op :: bytes) = .rejected (.unassigned op) ↔ unassignedByte op = true) ∧
  (∀ op : Byte, unassignedByte op = true → immLen op = 0 ∧ op ≠ jumpdestOpcode) ∧
  ((List.range 256).filter fun n => unassignedByte (BitVec.ofNat 8 n)).length = 155

/-- Words written out from 30_encoding.md R55 and the examples of 42_stack.md R117. -/
def Obligations.SampleWordsDecode : Prop :=
  decode [0x00] = .ok .stop [] ∧ decode [0x0A, 0x5B] = .ok .exp [0x5B] ∧ decode [0x1D] = .ok .sar [] ∧
  decode [0x38] = .ok .codesize [] ∧ decode [0x53] = .ok .mstore8 [] ∧ decode [0x5B] = .ok .jumpdest [] ∧
  decode [0x62, 0x01, 0x02, 0x03] = .ok (.push3 [0x01, 0x02, 0x03]) [] ∧
  decode [0x61, 0xAB] = .ok (.push2 [0xAB, 0x00]) [] ∧ decode [0x8F] = .ok .dup16 [] ∧
  decode [0x90] = .ok .swap1 [] ∧ decode [0xFD] = .ok .revert [] ∧ decode [0x5F] = .rejected (.unassigned 0x5F)

/-! The execution loop. -/

/-- 47_execution_loop.md R161 to R163, R165: in the Running state, when the bytes at `pc` decode to an instruction, the step is that
instruction's meaning. `exec` itself advances `pc` (R166) or sets it (R167). -/
def Obligations.StepRunsDecodedInstruction : Prop :=
  ∀ (s : State) (i : Instr) (rest : List Byte), s.runState = .running → s.pc < s.code.length →
    decode (s.code.drop s.pc) = .ok i rest → step s = exec i s

/-- 47_execution_loop.md R161: the fetch is the byte of the code at `pc`, and at or past the end of the code the opcode byte of
STOP, `0x00`; there the step halts normally, with `pc` left where it is (46_halt.md R150; decision D11). -/
def Obligations.FetchPastEndStops : Prop :=
  (∀ (code : List Byte) (pc : Nat) (op : Byte), code[pc]? = some op → fetchByte code pc = op) ∧
  (∀ (code : List Byte) (pc : Nat), code.length ≤ pc → fetchByte code pc = 0x00) ∧
  (∀ s : State, s.runState = .running → s.code.length ≤ s.pc →
    step s = .next { s with runState := .haltedNormal, output := none })

/-- The state machine of 47_execution_loop.md R168, row by row, and the run that applies `step` while Running. That "no step exists"
is the fault `runEnded` is log entry 3, and the fuel of `runFor` is log entry 10. -/
def Obligations.StepFollowsTheStateMachine : Prop :=
  (∀ s : State, s.runState = .running → (s.code.length ≤ s.pc ∨ s.code[s.pc]? = some 0x00) →
    ∃ t, step s = .next t ∧ t.runState = .haltedNormal) ∧
  (∀ s : State, s.runState = .running → s.code[s.pc]? = some 0xFD →
    ∃ t, step s = .next t ∧ (t.runState = .haltedRevert ∨ ∃ k, t = faultState k s)) ∧
  (∀ (s : State) (op : Byte), s.runState = .running → s.code[s.pc]? = some op → op ≠ 0x00 → op ≠ 0xFD →
    ∃ t, step s = .next t ∧ (t.runState = .running ∨ ∃ k, t = faultState k s)) ∧
  (∀ s : State, s.runState ≠ .running → step s = .fault .runEnded) ∧
  (∀ (fuel : Nat) (s t : State), step s = .next t → runFor (fuel + 1) s = runFor fuel t) ∧
  (∀ (fuel : Nat) (s : State), s.runState ≠ .running → runFor fuel s = s)

/-- The Execution Result is produced once: when a number of steps is enough for a result, more steps give the same one
(46_halt.md R150; 47_execution_loop.md R168). -/
def Obligations.ResultDoesNotChange : Prop :=
  ∀ (n m ceiling : Nat) (code callData : List Byte) (callValue : Word) (r : ExecutionResult),
    execute n ceiling code callData callValue = some r → n ≤ m → execute m ceiling code callData callValue = some r

/-- The table of 46_halt.md R150 over every run: there is a result exactly when the run has reached a terminal state; its outcome
is Normal, Reverted or `Faulted(fault_kind)` exactly as that state is Halted-Normal, Halted-Revert or Faulted with that kind; its
output is the one of that state, and is present exactly when the outcome is Reverted. (No output for a fault is decision D18; the
fuel is log entry 10.) -/
def Obligations.OutputExactlyWhenReverted : Prop :=
  ∀ (fuel ceiling : Nat) (code callData : List Byte) (callValue : Word),
    let s := runFor fuel (State.launch ceiling code callData callValue)
    ((∃ r, execute fuel ceiling code callData callValue = some r) ↔ s.runState ≠ .running) ∧
    ∀ r : ExecutionResult, execute fuel ceiling code callData callValue = some r →
      (r.outcome = .normal ↔ s.runState = .haltedNormal) ∧
      (r.outcome = .reverted ↔ s.runState = .haltedRevert) ∧
      (∀ k, r.outcome = .faulted k ↔ s.runState = .faulted ∧ s.faultKind = some k) ∧
      r.output = s.output ∧ (r.outcome = .reverted ↔ r.output ≠ none)

/-! Word arithmetic. -/

/-- 40_word_arithmetic.md R71, R72, R73: ADD, SUB and MUL wrap modulo `2^256`. -/
def Obligations.AddSubMulWrap : Prop :=
  BinaryRule 0x01 .add (fun a b w => w = BitVec.ofNat 256 (a.toNat + b.toNat)) ∧
  BinaryRule 0x03 .sub (fun a b w => w = BitVec.ofInt 256 ((a.toNat : Int) - (b.toNat : Int))) ∧
  BinaryRule 0x02 .mul (fun a b w => w = BitVec.ofNat 256 (a.toNat * b.toNat))

/-- 40_word_arithmetic.md R74, R75: unsigned quotient (its floor is decision D6) and remainder, 0 for divisor 0. -/
def Obligations.DivModUnsigned : Prop :=
  BinaryRule 0x04 .div (fun a b w => w.toNat = if b.toNat = 0 then 0 else a.toNat / b.toNat) ∧
  BinaryRule 0x06 .mod (fun a b w => w.toNat = if b.toNat = 0 then 0 else a.toNat % b.toNat)

/-- For a non-zero divisor, DIV and MOD of the same operands satisfy `u(a) = u(b) * u(DIV) + u(MOD)` and `u(MOD) < u(b)`
(40_word_arithmetic.md R81). -/
def Obligations.UnsignedDivisionIdentity : Prop :=
  ∀ (s : State) (a b : Word) (below : List Word), s.stack = b :: a :: below → b ≠ 0 →
    ∃ q r : Word, exec .div s = .next { s with stack := q :: below, pc := s.pc + 1 } ∧
      exec .mod s = .next { s with stack := r :: below, pc := s.pc + 1 } ∧
      a.toNat = b.toNat * q.toNat + r.toNat ∧ r.toNat < b.toNat

/-- 40_word_arithmetic.md R76, R77: SDIV truncates toward zero and SMOD takes the sign of the dividend (decision D6), 0 for divisor
0, and the most-negative value divided by -1 is unchanged. -/
def Obligations.SdivSmodSigned : Prop :=
  BinaryRule 0x05 .sdiv (fun a b w =>
    (b = 0 → w = 0) ∧ (a = BitVec.intMin 256 → b = BitVec.allOnes 256 → w = BitVec.intMin 256) ∧
    (b ≠ 0 → w = BitVec.ofInt 256 (a.toInt.tdiv b.toInt))) ∧
  BinaryRule 0x07 .smod (fun a b w => (b = 0 → w = 0) ∧ (b ≠ 0 → w = BitVec.ofInt 256 (a.toInt.tmod b.toInt)))

/-- 40_word_arithmetic.md R82, the table row by row, in signed readings: `p`, `q` the magnitudes, `t = p div q`, `r = p mod q`. The
rounding in the rows with a non-zero divisor is decision D6. -/
def Obligations.SignedDivisionTable : Prop :=
  ∀ (s : State) (a b : Word) (below : List Word), s.stack = b :: a :: below →
    let p := a.toInt.natAbs
    let q := b.toInt.natAbs
    ∃ d m : Word, exec .sdiv s = .next { s with stack := d :: below, pc := s.pc + 1 } ∧
      exec .smod s = .next { s with stack := m :: below, pc := s.pc + 1 } ∧
      (0 < a.toInt → 0 < b.toInt → d.toInt = (p / q : Nat) ∧ m.toInt = (p % q : Nat)) ∧
      (a.toInt < 0 → 0 < b.toInt → d.toInt = -((p / q : Nat) : Int) ∧ m.toInt = -((p % q : Nat) : Int)) ∧
      (0 < a.toInt → b.toInt < 0 → d.toInt = -((p / q : Nat) : Int) ∧ m.toInt = (p % q : Nat)) ∧
      (a.toInt < 0 → b.toInt < 0 → m.toInt = -((p % q : Nat) : Int) ∧
        (if p = 2 ^ 255 ∧ q = 1 then d = BitVec.intMin 256 else d.toInt = (p / q : Nat))) ∧
      (a.toInt = 0 → d = 0 ∧ m = 0) ∧ (b.toInt = 0 → d = 0 ∧ m = 0)

/-- For a non-zero divisor, and not the overflow case, SDIV and SMOD of the same operands satisfy
`s(a) = s(b) * s(SDIV) + s(SMOD)`, `|s(SMOD)| < |s(b)|`, and SMOD is 0 or has the sign of `a` (40_word_arithmetic.md R81;
decision D6). -/
def Obligations.SignedDivisionIdentity : Prop :=
  ∀ (s : State) (a b : Word) (below : List Word), s.stack = b :: a :: below → b ≠ 0 →
    ¬(a = BitVec.intMin 256 ∧ b = BitVec.allOnes 256) →
    ∃ d m : Word, exec .sdiv s = .next { s with stack := d :: below, pc := s.pc + 1 } ∧
      exec .smod s = .next { s with stack := m :: below, pc := s.pc + 1 } ∧
      a.toInt = b.toInt * d.toInt + m.toInt ∧ m.toInt.natAbs < b.toInt.natAbs ∧ (m = 0 ∨ m.toInt.sign = a.toInt.sign)

/-- 40_word_arithmetic.md R78, R79: ADDMOD and MULMOD reduce the exact sum and product, 0 for modulus 0. -/
def Obligations.AddmodMulmodWide : Prop :=
  TernaryRule 0x08 .addmod (fun x y m w => w.toNat = if m.toNat = 0 then 0 else (x.toNat + y.toNat) % m.toNat) ∧
  TernaryRule 0x09 .mulmod (fun x y m w => w.toNat = if m.toNat = 0 then 0 else x.toNat * y.toNat % m.toNat)

/-- 40_word_arithmetic.md R80: EXP is the exact power reduced modulo `2^256`, for every exponent. -/
def Obligations.ExpIsThePower : Prop :=
  BinaryRule 0x0A .exp (fun x y w => w.toNat = x.toNat ^ y.toNat % 2 ^ 256)

/-! Comparison, bitwise, byte and shift. -/

/-- 41_compare_bitwise_shift.md R91, R92: LT and GT compare unsigned and push 1 or 0. -/
def Obligations.UnsignedComparisons : Prop :=
  BinaryRule 0x10 .lt (fun a b w => (a.toNat < b.toNat → w = 1) ∧ (b.toNat ≤ a.toNat → w = 0)) ∧
  BinaryRule 0x11 .gt (fun a b w => (b.toNat < a.toNat → w = 1) ∧ (a.toNat ≤ b.toNat → w = 0))

/-- 41_compare_bitwise_shift.md R93, R94: SLT and SGT compare the signed readings. -/
def Obligations.SignedComparisons : Prop :=
  BinaryRule 0x12 .slt (fun a b w => (a.toInt < b.toInt → w = 1) ∧ (b.toInt ≤ a.toInt → w = 0)) ∧
  BinaryRule 0x13 .sgt (fun a b w => (b.toInt < a.toInt → w = 1) ∧ (a.toInt ≤ b.toInt → w = 0))

/-- 41_compare_bitwise_shift.md R95, R96: EQ compares all 256 bits, ISZERO compares with 0. -/
def Obligations.EqualityTests : Prop :=
  BinaryRule 0x14 .eq (fun a b w =>
    ((∀ k, k < 256 → a.getLsbD k = b.getLsbD k) → w = 1) ∧ ((∃ k, k < 256 ∧ a.getLsbD k ≠ b.getLsbD k) → w = 0)) ∧
  UnaryRule 0x15 .iszero (fun a w => (a.toNat = 0 → w = 1) ∧ (a.toNat ≠ 0 → w = 0))

/-- 41_compare_bitwise_shift.md R97, R98, R99: AND, OR and XOR, bit for bit. -/
def Obligations.BitwiseBitForBit : Prop :=
  BinaryRule 0x16 .and (fun a b w => ∀ k, k < 256 → w.getLsbD k = (a.getLsbD k && b.getLsbD k)) ∧
  BinaryRule 0x17 .or (fun a b w => ∀ k, k < 256 → w.getLsbD k = (a.getLsbD k || b.getLsbD k)) ∧
  BinaryRule 0x18 .xor (fun a b w => ∀ k, k < 256 → w.getLsbD k = (a.getLsbD k ^^ b.getLsbD k))

/-- 41_compare_bitwise_shift.md R100: NOT is `ONES - u(a)`, and every one of the 256 bits is inverted. -/
def Obligations.NotInvertsEveryBit : Prop :=
  UnaryRule 0x19 .not (fun a w =>
    w.toNat = 2 ^ 256 - 1 - a.toNat ∧ ∀ k, k < 256 → w.getLsbD k = !(a.getLsbD k))

/-- 41_compare_bitwise_shift.md R101: BYTE, with the value on top and the index second (decision D7); an index of 32 or more gives
0. -/
def Obligations.ByteExtractsFromTheTop : Prop :=
  BinaryRule 0x1A .byte (fun i x w =>
    (32 ≤ i.toNat → w = 0) ∧
    (i.toNat < 32 → w = (byteAt x i.toNat).setWidth 256 ∧ w.toNat = x.toNat / 2 ^ (8 * (31 - i.toNat)) % 256))

/-- 41_compare_bitwise_shift.md R102, R103: SHL and SHR with the amount on top (decision D7), as numbers and bit by bit; an amount
of 256 or more gives 0. -/
def Obligations.LogicalShifts : Prop :=
  BinaryRule 0x1B .shl (fun v n w =>
    (256 ≤ n.toNat → w = 0) ∧ (n.toNat < 256 → w.toNat = v.toNat * 2 ^ n.toNat % 2 ^ 256) ∧
    ∀ k, k < 256 → w.getLsbD k = (decide (n.toNat ≤ k) && v.getLsbD (k - n.toNat))) ∧
  BinaryRule 0x1C .shr (fun v n w =>
    (256 ≤ n.toNat → w = 0) ∧ (n.toNat < 256 → w.toNat = v.toNat / 2 ^ n.toNat) ∧
    ∀ k, k < 256 → w.getLsbD k = v.getLsbD (k + n.toNat))

/-- 41_compare_bitwise_shift.md R104: SAR with the amount on top (decision D7): the floor of the signed quotient below 256, the
sign bit everywhere from 256 on, and bit `k` is `v[k + n]` or the sign bit. -/
def Obligations.ArithmeticShift : Prop :=
  BinaryRule 0x1D .sar (fun v n w =>
    (256 ≤ n.toNat → v.getLsbD 255 = true → w = BitVec.allOnes 256) ∧
    (256 ≤ n.toNat → v.getLsbD 255 = false → w = 0) ∧
    (n.toNat < 256 → w = BitVec.ofInt 256 (v.toInt.fdiv (2 ^ n.toNat))) ∧
    ∀ k, k < 256 → w.getLsbD k = if k + n.toNat ≤ 255 then v.getLsbD (k + n.toNat) else v.getLsbD 255)

/-! The stack. -/

/-- 42_stack.md R116: POP drops the top (its byte is decision D2). -/
def Obligations.PopDropsTheTop : Prop :=
  EncodedBy 0x50 .pop ∧
  (∀ (s : State) (a : Word) (below : List Word), s.stack = a :: below →
    exec .pop s = .next { s with stack := below, pc := s.pc + 1 }) ∧
  (∀ s : State, s.stack.length < 1 → Raises .pop s .stackUnderflow)

/-- 42_stack.md R117, for PUSH1 to PUSH32: the immediate, big-endian and zero-extended (decision D5), is pushed and `pc` advances
past it; StackOverflow, with `pc` not advanced, on a full stack. Every width from 1 to 32 has its instruction. -/
def Obligations.PushPushesItsImmediate : Prop :=
  (∀ n : Nat, 1 ≤ n → n ≤ 32 → ∀ imm : List Byte, ∃ i : Instr, i.pushOperand = some (n, imm)) ∧
  (∀ (i : Instr) (n : Nat) (imm : List Byte), i.pushOperand = some (n, imm) → imm.length = n →
    1 ≤ n ∧ n ≤ 32 ∧ encode i = BitVec.ofNat 8 (0x5F + n) :: imm ∧
    (∀ rest, decode (BitVec.ofNat 8 (0x5F + n) :: imm ++ rest) = .ok i rest) ∧
    (∀ s : State, s.stack.length < 1024 →
      exec i s = .next { s with stack := BitVec.ofNat 256 (bigEndian imm) :: s.stack, pc := s.pc + 1 + n }) ∧
    (∀ s : State, 1024 ≤ s.stack.length → Raises i s .stackOverflow))

/-- 30_encoding.md R53, R54: the bytes of the value come from the code after the opcode, `0x00` past its end (decision D9), and a
push cut short by the end of the code is followed by a fetch that halts normally. -/
def Obligations.PushReadsTheCode : Prop :=
  ∀ (s : State) (n : Nat), 1 ≤ n → n ≤ 32 → s.runState = .running → s.stack.length < 1024 →
    s.code[s.pc]? = some (BitVec.ofNat 8 (0x5F + n)) →
    ∃ t, step s = .next t ∧
      t = { s with
        stack := BitVec.ofNat 256 (bigEndian ((List.range n).map fun k => (s.code[s.pc + 1 + k]?).getD 0)) :: s.stack,
        pc := s.pc + 1 + n } ∧
      (s.code.length < s.pc + 1 + n → ∃ u, step t = .next u ∧ u.runState = .haltedNormal)

/-- 42_stack.md R118, for DUP1 to DUP16: one copy of `st[n-1]` is pushed (the depth mapping is decision D8). Every number from 1 to
16 has its instruction. -/
def Obligations.DupCopiesOneEntry : Prop :=
  (∀ n : Nat, 1 ≤ n → n ≤ 16 → ∃ i : Instr, i.dupIndex = some n) ∧
  (∀ (i : Instr) (n : Nat), i.dupIndex = some n →
    1 ≤ n ∧ n ≤ 16 ∧ EncodedBy (BitVec.ofNat 8 (0x7F + n)) i ∧
    (∀ (s : State) (w : Word), s.stack[n - 1]? = some w → s.stack.length < 1024 →
      exec i s = .next { s with stack := w :: s.stack, pc := s.pc + 1 }) ∧
    (∀ s : State, s.stack.length < n → Raises i s .stackUnderflow) ∧
    (∀ s : State, n ≤ s.stack.length → 1024 ≤ s.stack.length → Raises i s .stackOverflow))

/-- 42_stack.md R119, for SWAP1 to SWAP16: the top and `st[n]` are exchanged and nothing else moves (the depth mapping is decision
D8); two in a row restore the stack. Every number from 1 to 16 has its instruction. -/
def Obligations.SwapExchangesTwoEntries : Prop :=
  (∀ n : Nat, 1 ≤ n → n ≤ 16 → ∃ i : Instr, i.swapIndex = some n) ∧
  (∀ (i : Instr) (n : Nat), i.swapIndex = some n →
    1 ≤ n ∧ n ≤ 16 ∧ EncodedBy (BitVec.ofNat 8 (0x8F + n)) i ∧
    (∀ (s : State) (top deep : Word) (between below : List Word), between.length = n - 1 →
      s.stack = top :: between ++ deep :: below →
      exec i s = .next { s with stack := deep :: between ++ top :: below, pc := s.pc + 1 }) ∧
    (∀ s : State, s.stack.length < n + 1 → Raises i s .stackUnderflow))

/-! Memory. -/

/-- 43_memory_access.md R121 with 20_memory.md R35: MLOAD pushes the big-endian Word at the offset, the high-water mark covers it,
every byte of memory is as before, and an offset whose mark passes the ceiling faults (the quantity compared is decision D10; the
opcode is bound by decision D2). -/
def Obligations.MloadReadsAWord : Prop :=
  EncodedBy 0x51 .mload ∧
  (∀ (s : State) (offset : Word) (below : List Word), s.stack = offset :: below →
    (markFor offset.toNat 32 ≤ s.memCeiling →
      ∃ w : Word, (∀ k, k < 32 → byteAt w k = s.mem.read (offset.toNat + k)) ∧
        exec .mload s = .next { s with
          stack := w :: below, pc := s.pc + 1, msize := max s.msize (markFor offset.toNat 32) }) ∧
    (s.memCeiling < markFor offset.toNat 32 → Raises .mload s .memoryLimitExceeded)) ∧
  (∀ s : State, s.stack.length < 1 → Raises .mload s .stackUnderflow)

/-- 43_memory_access.md R122 with 20_memory.md R35: MSTORE writes the 32 bytes of the Word big-endian at the offset, every other
byte is as before, and nothing but the stack, `pc` and the high-water mark changes besides (operand order: decision D19; the
quantity compared with the ceiling: decision D10; the opcode: decision D2). -/
def Obligations.MstoreWritesAWord : Prop :=
  EncodedBy 0x52 .mstore ∧
  (∀ (s : State) (offset w : Word) (below : List Word), s.stack = offset :: w :: below →
    (markFor offset.toNat 32 ≤ s.memCeiling →
      ∃ m : Memory, (∀ k, k < 32 → m.read (offset.toNat + k) = byteAt w k) ∧
        (∀ a, a < offset.toNat ∨ offset.toNat + 32 ≤ a → m.read a = s.mem.read a) ∧
        exec .mstore s = .next { s with
          stack := below, pc := s.pc + 1, msize := max s.msize (markFor offset.toNat 32), mem := m }) ∧
    (s.memCeiling < markFor offset.toNat 32 → Raises .mstore s .memoryLimitExceeded)) ∧
  (∀ s : State, s.stack.length < 2 → Raises .mstore s .stackUnderflow)

/-- 43_memory_access.md R123 with 20_memory.md R35: MSTORE8 writes the low 8 bits of the Word at the offset, and every other byte
is as before (decision D19; the quantity compared with the ceiling: decision D10; the opcode: decision D2). -/
def Obligations.Mstore8WritesAByte : Prop :=
  EncodedBy 0x53 .mstore8 ∧
  (∀ (s : State) (offset w : Word) (below : List Word), s.stack = offset :: w :: below →
    (markFor offset.toNat 1 ≤ s.memCeiling →
      ∃ m : Memory, m.read offset.toNat = BitVec.ofNat 8 w.toNat ∧
        (∀ a, a ≠ offset.toNat → m.read a = s.mem.read a) ∧
        exec .mstore8 s = .next { s with
          stack := below, pc := s.pc + 1, msize := max s.msize (markFor offset.toNat 1), mem := m }) ∧
    (s.memCeiling < markFor offset.toNat 1 → Raises .mstore8 s .memoryLimitExceeded)) ∧
  (∀ s : State, s.stack.length < 2 → Raises .mstore8 s .stackUnderflow)

/-- A load of the offset just stored to returns the Word stored, and grows nothing more (20_memory.md R31, R44). -/
def Obligations.LoadAfterStore : Prop :=
  ∀ (s : State) (offset w : Word) (below : List Word), s.stack = offset :: w :: below →
    markFor offset.toNat 32 ≤ s.memCeiling →
    ∃ t : State, exec .mstore s = .next t ∧
      exec .mload { t with stack := offset :: t.stack } = .next { t with stack := w :: below, pc := s.pc + 2 }

/-! Jumps. -/

/-- 44_jump.md R131: an offset is in the jump destination set if and only if the scan reaches it as the start of an instruction and
the byte there is the marker. -/
def Obligations.AnalysisIsExact : Prop :=
  ∀ (code : List Byte) (t : Nat), t ∈ analyse code ↔ Boundary code t ∧ code[t]? = some 0x5B

/-- 44_jump.md R132, R133: JUMP goes exactly to a destination whose full value is in the set, and faults with the stack and `pc` as
they were on any other, `code_len` and beyond included. -/
def Obligations.JumpGoesToAMarkedDestination : Prop :=
  EncodedBy 0x56 .jump ∧
  (∀ (code : List Byte) (t : Word), (isValidTarget code t = true ↔ t.toNat ∈ analyse code) ∧
    (code.length ≤ t.toNat → isValidTarget code t = false)) ∧
  (∀ (s : State) (dest : Word) (below : List Word), s.stack = dest :: below →
    (dest.toNat ∈ analyse s.code → exec .jump s = .next { s with stack := below, pc := dest.toNat }) ∧
    (dest.toNat ∉ analyse s.code → Raises .jump s .invalidJumpDestination)) ∧
  (∀ s : State, s.stack.length < 1 → Raises .jump s .stackUnderflow)

/-- 44_jump.md R134: JUMPI with a non-zero condition behaves as JUMP; with a zero condition it falls through and the destination is
not validated (this last is derived in the rule). -/
def Obligations.JumpiTestsItsCondition : Prop :=
  EncodedBy 0x57 .jumpi ∧
  (∀ (s : State) (dest cond : Word) (below : List Word), s.stack = dest :: cond :: below →
    (cond = 0 → exec .jumpi s = .next { s with stack := below, pc := s.pc + 1 }) ∧
    (cond ≠ 0 → dest.toNat ∈ analyse s.code → exec .jumpi s = .next { s with stack := below, pc := dest.toNat }) ∧
    (cond ≠ 0 → dest.toNat ∉ analyse s.code → Raises .jumpi s .invalidJumpDestination)) ∧
  (∀ s : State, s.stack.length < 2 → Raises .jumpi s .stackUnderflow)

/-- 44_jump.md R135: JUMPDEST only advances `pc`. -/
def Obligations.JumpdestOnlyAdvances : Prop :=
  EncodedBy 0x5B .jumpdest ∧ ∀ s : State, exec .jumpdest s = .next { s with pc := s.pc + 1 }

/-- After a JUMP, or a JUMPI with a non-zero condition, that did not fault, `pc` is the destination that was on top, it is within
the code, the byte there is the marker, and the next step executes that JUMPDEST (44_jump.md R136 (a), derived there;
47_execution_loop.md R167). -/
def Obligations.JumpLandsOnAMarker : Prop :=
  ∀ (s t : State) (dest : Word) (below : List Word), s.runState = .running → s.stack = dest :: below →
    (s.code[s.pc]? = some 0x56 ∨ s.code[s.pc]? = some 0x57 ∧ ∃ cond rest, below = cond :: rest ∧ cond ≠ 0) →
    step s = .next t → t.runState = .running →
    t.pc = dest.toNat ∧ t.code[t.pc]? = some 0x5B ∧ step t = .next { t with pc := t.pc + 1 }

/-- From an instruction boundary every step leaves `pc` at an instruction boundary of the same code, and no byte of an immediate
is at one: so no run executes a byte of an immediate (30_encoding.md R58; 44_jump.md R136 (b), derived there). -/
def Obligations.StepKeepsInstructionBoundary : Prop :=
  (∀ s t : State, Boundary s.code s.pc → step s = .next t → t.code = s.code ∧ Boundary t.code t.pc) ∧
  (∀ (code : List Byte) (i k : Nat) (op : Byte), Boundary code i → code[i]? = some op → k < pushWidth op →
    ¬Boundary code (i + 1 + k))

/-! Context. -/

/-- 45_context.md R141, R143, R144: CALLVALUE, CALLDATASIZE and CODESIZE (decision D14). -/
def Obligations.ContextValuesArePushed : Prop :=
  PushesRule 0x34 .callvalue (fun s => s.callValue) ∧
  PushesRule 0x36 .calldatasize (fun s => BitVec.ofNat 256 s.callData.length) ∧
  PushesRule 0x38 .codesize (fun s => BitVec.ofNat 256 s.code.length)

/-- 45_context.md R142: CALLDATALOAD pushes the 32 bytes of call data at the offset, big-endian, zero past the end, with an index
that does not wrap, and never faults on the value of the offset (decision D14). -/
def Obligations.CalldataloadReadsPaddedBytes : Prop :=
  EncodedBy 0x35 .calldataload ∧
  (∀ (s : State) (i : Word) (below : List Word), s.stack = i :: below →
    ∃ w : Word, (∀ k, k < 32 → byteAt w k = (s.callData[i.toNat + k]?).getD 0) ∧
      exec .calldataload s = .next { s with stack := w :: below, pc := s.pc + 1 }) ∧
  (∀ s : State, s.stack.length < 1 → Raises .calldataload s .stackUnderflow)

/-! Halting. -/

/-- 46_halt.md R151: STOP halts normally with no output and leaves everything else, and a fetch at or past the end of the code
behaves exactly as STOP. That `pc` stays at the STOP is 46_halt.md R150 (decision D11). -/
def Obligations.StopHaltsNormally : Prop :=
  EncodedBy 0x00 .stop ∧
  (∀ s : State, exec .stop s = .next { s with runState := .haltedNormal, output := none }) ∧
  (∀ s : State, s.runState = .running → s.code.length ≤ s.pc → step s = exec .stop s)

/-- 46_halt.md R152: REVERT returns the bytes of memory its operands name (decision D3); length 0 grows nothing and never faults; a
range whose mark passes the ceiling faults (the quantity compared is decision D10). That `pc` stays at the REVERT is R150
(decision D11). -/
def Obligations.RevertReturnsItsRange : Prop :=
  EncodedBy 0xFD .revert ∧
  (∀ (s : State) (offset length : Word) (below : List Word), s.stack = offset :: length :: below →
    (length = 0 →
      exec .revert s = .next { s with stack := below, runState := .haltedRevert, output := some [] }) ∧
    (length ≠ 0 → markFor offset.toNat length.toNat ≤ s.memCeiling →
      ∃ out : List Byte, out.length = length.toNat ∧
        (∀ k, k < length.toNat → out[k]? = some (s.mem.read (offset.toNat + k))) ∧
        exec .revert s = .next { s with
          stack := below, runState := .haltedRevert, output := some out,
          msize := max s.msize (markFor offset.toNat length.toNat) }) ∧
    (length ≠ 0 → s.memCeiling < markFor offset.toNat length.toNat → Raises .revert s .memoryLimitExceeded)) ∧
  (∀ s : State, s.stack.length < 2 → Raises .revert s .stackUnderflow)

/-! Faults. -/

/-- 60_exceptions.md R186: a step that takes a fault changes the run state and the fault kind and nothing else (decision D11). -/
def Obligations.FaultsArePrecise : Prop :=
  ∀ s t : State, step s = .next t → t.runState = .faulted →
    (∃ k, t.faultKind = some k) ∧ t.stack = s.stack ∧ t.mem = s.mem ∧ t.msize = s.msize ∧ t.pc = s.pc ∧
      t.output = s.output ∧ t.code = s.code ∧ t.callData = s.callData ∧ t.callValue = s.callValue ∧
      t.memCeiling = s.memCeiling

/-- 60_exceptions.md R182: StackUnderflow is taken exactly when there are fewer entries than the instruction needs. -/
def Obligations.UnderflowExactly : Prop :=
  ∀ (i : Instr) (s : State), Raises i s .stackUnderflow ↔ s.stack.length < i.needs

/-- 60_exceptions.md R181: StackOverflow is taken exactly by an instruction whose net stack change is positive, on a full stack that
has the entries it needs. R181 says "each only at `len = 1024`"; that a stack of more entries, which no run reaches, counts as full
too is the test of 42_stack.md R112 taken as it stands (log entry 9). -/
def Obligations.OverflowExactly : Prop :=
  ∀ (i : Instr) (s : State),
    Raises i s .stackOverflow ↔ i.grows = true ∧ i.needs ≤ s.stack.length ∧ 1024 ≤ s.stack.length

/-- 60_exceptions.md R183: MemoryLimitExceeded is taken exactly by an access of at least one byte whose aligned mark passes the
ceiling (the quantity compared, 20_memory.md R35, is decision D10); so not by an access within the current mark while that is within the ceiling, nor for length 0. -/
def Obligations.MemoryLimitExactly : Prop :=
  (∀ (i : Instr) (s : State), Raises i s .memoryLimitExceeded ↔
    ∃ addr n, accessOf i s.stack = some (addr, n) ∧ 0 < n ∧ s.memCeiling < markFor addr n) ∧
  (∀ (i : Instr) (s : State) (addr n : Nat), accessOf i s.stack = some (addr, n) → s.msize ≤ s.memCeiling →
    (n = 0 ∨ markFor addr n ≤ s.msize) → ¬Raises i s .memoryLimitExceeded)

/-- 60_exceptions.md R185: InvalidJumpDestination is taken exactly by JUMP, and by JUMPI with a non-zero condition, on a destination
outside the set; any destination that is no instruction boundary is outside it, whatever its byte. -/
def Obligations.InvalidJumpExactly : Prop :=
  (∀ (i : Instr) (s : State), Raises i s .invalidJumpDestination ↔
    ∃ (dest : Word) (below : List Word), s.stack = dest :: below ∧ isValidTarget s.code dest = false ∧
      (i = .jump ∨ i = .jumpi ∧ ∃ cond rest, below = cond :: rest ∧ cond ≠ 0)) ∧
  (∀ (code : List Byte) (dest : Word), ¬Boundary code dest.toNat → isValidTarget code dest = false)

/-- 60_exceptions.md R184: a step takes InvalidOpcode exactly when the byte at `pc`, within the code, is one of the 155 unassigned
bytes, and nothing else of the state is looked at; in a run from launch that byte is at an instruction boundary, so it is no byte
of an immediate. -/
def Obligations.InvalidOpcodeExactly : Prop :=
  (∀ s : State, s.runState = .running →
    (step s = .next (faultState .invalidOpcode s) ↔ ∃ op, s.code[s.pc]? = some op ∧ unassignedByte op = true)) ∧
  (∀ (fuel ceiling : Nat) (code callData : List Byte) (callValue : Word),
    let s := runFor fuel (State.launch ceiling code callData callValue)
    s.faultKind = some .invalidOpcode →
      Boundary code s.pc ∧ ∃ op, code[s.pc]? = some op ∧ unassignedByte op = true)
end

