-- ==== Sys2Proof/Laws/State.lean ====
section
/-! SUPPORT. One lemma per field per named state update, true by unfolding: no later proof unfolds a record update. -/

namespace Sys2Proof.Laws

open Sys2Proof.Machine Sys2Proof.Safety

/-! `place`. -/

@[simp] theorem place_runState (w : Word) (s : State) : (place w s).runState = s.runState := rfl
@[simp] theorem place_pc (w : Word) (s : State) : (place w s).pc = s.pc := rfl
@[simp] theorem place_stack (w : Word) (s : State) : (place w s).stack = w :: s.stack := rfl
@[simp] theorem place_mem (w : Word) (s : State) : (place w s).mem = s.mem := rfl
@[simp] theorem place_msize (w : Word) (s : State) : (place w s).msize = s.msize := rfl
@[simp] theorem place_faultKind (w : Word) (s : State) : (place w s).faultKind = s.faultKind := rfl
@[simp] theorem place_output (w : Word) (s : State) : (place w s).output = s.output := rfl
@[simp] theorem place_code (w : Word) (s : State) : (place w s).code = s.code := rfl
@[simp] theorem place_callData (w : Word) (s : State) : (place w s).callData = s.callData := rfl
@[simp] theorem place_callValue (w : Word) (s : State) : (place w s).callValue = s.callValue := rfl
@[simp] theorem place_memCeiling (w : Word) (s : State) : (place w s).memCeiling = s.memCeiling := rfl

/-! `complete`. -/

@[simp] theorem complete_runState (n : Nat) (s : State) : (complete n s).runState = s.runState := rfl
@[simp] theorem complete_pc (n : Nat) (s : State) : (complete n s).pc = s.pc + 1 + n := rfl
@[simp] theorem complete_stack (n : Nat) (s : State) : (complete n s).stack = s.stack := rfl
@[simp] theorem complete_mem (n : Nat) (s : State) : (complete n s).mem = s.mem := rfl
@[simp] theorem complete_msize (n : Nat) (s : State) : (complete n s).msize = s.msize := rfl
@[simp] theorem complete_faultKind (n : Nat) (s : State) : (complete n s).faultKind = s.faultKind := rfl
@[simp] theorem complete_output (n : Nat) (s : State) : (complete n s).output = s.output := rfl
@[simp] theorem complete_code (n : Nat) (s : State) : (complete n s).code = s.code := rfl
@[simp] theorem complete_callData (n : Nat) (s : State) : (complete n s).callData = s.callData := rfl
@[simp] theorem complete_callValue (n : Nat) (s : State) : (complete n s).callValue = s.callValue := rfl
@[simp] theorem complete_memCeiling (n : Nat) (s : State) : (complete n s).memCeiling = s.memCeiling := rfl

/-! `halt`. -/

@[simp] theorem halt_runState (o : HaltOutcome) (out : Option (List Byte)) (s : State) : (halt o out s).runState = haltState o := rfl
@[simp] theorem halt_pc (o : HaltOutcome) (out : Option (List Byte)) (s : State) : (halt o out s).pc = s.pc := rfl
@[simp] theorem halt_stack (o : HaltOutcome) (out : Option (List Byte)) (s : State) : (halt o out s).stack = s.stack := rfl
@[simp] theorem halt_mem (o : HaltOutcome) (out : Option (List Byte)) (s : State) : (halt o out s).mem = s.mem := rfl
@[simp] theorem halt_msize (o : HaltOutcome) (out : Option (List Byte)) (s : State) : (halt o out s).msize = s.msize := rfl
@[simp] theorem halt_faultKind (o : HaltOutcome) (out : Option (List Byte)) (s : State) : (halt o out s).faultKind = s.faultKind := rfl
@[simp] theorem halt_output (o : HaltOutcome) (out : Option (List Byte)) (s : State) : (halt o out s).output = out := rfl
@[simp] theorem halt_code (o : HaltOutcome) (out : Option (List Byte)) (s : State) : (halt o out s).code = s.code := rfl
@[simp] theorem halt_callData (o : HaltOutcome) (out : Option (List Byte)) (s : State) : (halt o out s).callData = s.callData := rfl
@[simp] theorem halt_callValue (o : HaltOutcome) (out : Option (List Byte)) (s : State) : (halt o out s).callValue = s.callValue := rfl
@[simp] theorem halt_memCeiling (o : HaltOutcome) (out : Option (List Byte)) (s : State) : (halt o out s).memCeiling = s.memCeiling := rfl

/-! `faultState`. -/

@[simp] theorem faultState_runState (k : FaultKind) (s : State) : (faultState k s).runState = .faulted := rfl
@[simp] theorem faultState_pc (k : FaultKind) (s : State) : (faultState k s).pc = s.pc := rfl
@[simp] theorem faultState_stack (k : FaultKind) (s : State) : (faultState k s).stack = s.stack := rfl
@[simp] theorem faultState_mem (k : FaultKind) (s : State) : (faultState k s).mem = s.mem := rfl
@[simp] theorem faultState_msize (k : FaultKind) (s : State) : (faultState k s).msize = s.msize := rfl
@[simp] theorem faultState_faultKind (k : FaultKind) (s : State) : (faultState k s).faultKind = some k := rfl
@[simp] theorem faultState_output (k : FaultKind) (s : State) : (faultState k s).output = s.output := rfl
@[simp] theorem faultState_code (k : FaultKind) (s : State) : (faultState k s).code = s.code := rfl
@[simp] theorem faultState_callData (k : FaultKind) (s : State) : (faultState k s).callData = s.callData := rfl
@[simp] theorem faultState_callValue (k : FaultKind) (s : State) : (faultState k s).callValue = s.callValue := rfl
@[simp] theorem faultState_memCeiling (k : FaultKind) (s : State) : (faultState k s).memCeiling = s.memCeiling := rfl

/-! `State.launch`. -/

@[simp] theorem launch_runState (c : Nat) (code cd : List Byte) (v : Word) : (State.launch c code cd v).runState = .running := rfl
@[simp] theorem launch_pc (c : Nat) (code cd : List Byte) (v : Word) : (State.launch c code cd v).pc = 0 := rfl
@[simp] theorem launch_stack (c : Nat) (code cd : List Byte) (v : Word) : (State.launch c code cd v).stack = [] := rfl
@[simp] theorem launch_mem (c : Nat) (code cd : List Byte) (v : Word) : (State.launch c code cd v).mem = [] := rfl
@[simp] theorem launch_msize (c : Nat) (code cd : List Byte) (v : Word) : (State.launch c code cd v).msize = 0 := rfl
@[simp] theorem launch_faultKind (c : Nat) (code cd : List Byte) (v : Word) : (State.launch c code cd v).faultKind = none := rfl
@[simp] theorem launch_output (c : Nat) (code cd : List Byte) (v : Word) : (State.launch c code cd v).output = none := rfl
@[simp] theorem launch_code (c : Nat) (code cd : List Byte) (v : Word) : (State.launch c code cd v).code = code := rfl
@[simp] theorem launch_callData (c : Nat) (code cd : List Byte) (v : Word) : (State.launch c code cd v).callData = cd := rfl
@[simp] theorem launch_callValue (c : Nat) (code cd : List Byte) (v : Word) : (State.launch c code cd v).callValue = v := rfl
@[simp] theorem launch_memCeiling (c : Nat) (code cd : List Byte) (v : Word) : (State.launch c code cd v).memCeiling = c := rfl

end Sys2Proof.Laws
end

