-- ==== Sys2Proof/Laws/Alu.lean ====
section
/-! SUPPORT. The ALU's shared pieces: narrowing that changes nothing, the sign and magnitude form of signed division, and the
rounds of EXP. -/

namespace Sys2Proof.Laws

open Sys2Proof.Machine Sys2Proof.Safety

/-- A number no larger than a Word's is narrowed unchanged. -/
theorem toNat_wrapNat_of_le {n : Nat} {w : Word} (h : n ≤ w.toNat) : (wrapNat n).toNat = n := by
  rw [wrapNat, BitVec.toNat_ofNat, Nat.mod_eq_of_lt (by have := w.isLt; omega)]

/-- An integer in the signed range is narrowed unchanged. -/
theorem toInt_ofInt_of_range {z : Int} (hlo : -2 ^ 255 ≤ z) (hhi : z < 2 ^ 255) : (BitVec.ofInt 256 z).toInt = z := by
  rw [BitVec.toInt_ofInt, Int.bmod_eq_of_le] <;> omega

theorem toNat_ne_zero {b : Word} (h : b ≠ 0) : b.toNat ≠ 0 := fun h0 => h (BitVec.eq_of_toNat_eq h0)

/-- The truth Word of a test, both ways. -/
theorem truthWord_decide (p : Prop) [Decidable p] :
    (p → truthWord (decide p) = 1) ∧ (¬p → truthWord (decide p) = 0) :=
  ⟨fun h => by simp [truthWord, h], fun h => by simp [truthWord, h]⟩

/-- Truncating division by magnitudes and signs. -/
theorem tdiv_eq_magnitudes (x y : Int) :
    x.tdiv y = if decide (x < 0) != decide (y < 0) then -((x.natAbs / y.natAbs : Nat) : Int)
      else ((x.natAbs / y.natAbs : Nat) : Int) := by
  cases x with
  | ofNat m =>
    have hm : ¬Int.ofNat m < 0 := by simp
    cases y with
    | ofNat n =>
      have hn : ¬Int.ofNat n < 0 := by simp
      simp only [hm, hn, decide_false]
      rfl
    | negSucc n =>
      simp only [hm, Int.negSucc_lt_zero n, decide_true, decide_false]
      rfl
  | negSucc m =>
    cases y with
    | ofNat n =>
      have hn : ¬Int.ofNat n < 0 := by simp
      simp only [hn, Int.negSucc_lt_zero m, decide_true, decide_false]
      rfl
    | negSucc n =>
      simp only [Int.negSucc_lt_zero m, Int.negSucc_lt_zero n, decide_true]
      rfl

/-- The remainder that goes with truncating division, by magnitudes and the sign of the dividend. -/
theorem tmod_eq_magnitudes (x y : Int) :
    x.tmod y = if decide (x < 0) then -((x.natAbs % y.natAbs : Nat) : Int) else ((x.natAbs % y.natAbs : Nat) : Int) := by
  cases x with
  | ofNat m => cases y <;> simp [Int.tmod]
  | negSucc m => cases y <;> (simp only [Int.negSucc_lt_zero m, decide_true]; rfl)

/-- What the rounds of EXP compute, for an exponent that fits in them. -/
theorem expRounds_mod (n b e acc : Nat) (he : e < 2 ^ n) :
    expRounds n b e acc % 2 ^ 256 = acc * b ^ e % 2 ^ 256 := by
  induction n generalizing b e acc with
  | zero =>
    have : e = 0 := by simpa using he
    subst this
    simp [expRounds]
  | succ n ih =>
    unfold expRounds
    rw [ih _ _ _ (by rw [Nat.pow_succ] at he; omega)]
    have hsq : (b * b % 2 ^ 256) ^ (e / 2) % 2 ^ 256 = b ^ (2 * (e / 2)) % 2 ^ 256 := by
      rw [← Nat.pow_mod, ← Nat.pow_two, ← Nat.pow_mul]
    split
    · next hodd =>
      rw [Nat.mul_mod, hsq, Nat.mod_mod, ← Nat.mul_mod, Nat.mul_assoc, ← Nat.pow_succ']
      congr 3
      omega
    · next heven =>
      rw [Nat.mul_mod, hsq, ← Nat.mul_mod]
      congr 3
      omega

end Sys2Proof.Laws
end

