-- ==== Sys2Proof/Laws/Bytes.lean ====
section
/-! SUPPORT. Big-endian byte strings: the machine's `be` and `bytesBE` against digit sums and byte slices. -/

namespace Sys2Proof.Laws

open Sys2Proof.Machine Sys2Proof.Safety

theorem be_foldl (acc : Nat) (bytes : List Byte) :
    bytes.foldl (fun acc b => 256 * acc + b.toNat) acc = acc * 256 ^ bytes.length + bigEndian bytes := by
  induction bytes generalizing acc with
  | nil => simp [bigEndian]
  | cons b bytes ih =>
    rw [List.foldl_cons, ih, bigEndian, List.length_cons, Nat.pow_succ]
    ring

/-- `be` is the digit sum. -/
theorem be_eq_bigEndian (bytes : List Byte) : be bytes = bigEndian bytes := by
  simp [be, be_foldl]

/-- The number a byte string stands for fits in its bytes. -/
theorem bigEndian_lt (bytes : List Byte) : bigEndian bytes < 256 ^ bytes.length := by
  induction bytes with
  | nil => simp [bigEndian]
  | cons b bytes ih =>
    have hb : b.toNat < 256 := b.isLt
    rw [bigEndian, List.length_cons, Nat.pow_succ]
    have : b.toNat * 256 ^ bytes.length + 256 ^ bytes.length ≤ 256 ^ bytes.length * 256 := by
      calc b.toNat * 256 ^ bytes.length + 256 ^ bytes.length = (b.toNat + 1) * 256 ^ bytes.length := by ring
        _ ≤ 256 * 256 ^ bytes.length := Nat.mul_le_mul_right _ hb
        _ = _ := by ring
    omega

/-- Byte `k` of a byte string is the digit of its number at that place. -/
theorem bigEndian_digit (bytes : List Byte) {k : Nat} (h : k < bytes.length) :
    bigEndian bytes / 256 ^ (bytes.length - 1 - k) % 256 = ((bytes[k]?).getD 0).toNat := by
  induction bytes generalizing k with
  | nil => simp at h
  | cons b bytes ih =>
    have hlt := bigEndian_lt bytes
    have hpos : 0 < 256 ^ bytes.length := Nat.pow_pos (by omega)
    cases k with
    | zero =>
      rw [bigEndian, List.length_cons]
      have hb : b.toNat < 256 := b.isLt
      simp only [Nat.add_sub_cancel, Nat.sub_zero, List.getElem?_cons_zero, Option.getD_some]
      rw [Nat.mul_comm, Nat.mul_add_div hpos, Nat.div_eq_of_lt hlt, Nat.add_zero, Nat.mod_eq_of_lt hb]
    | succ k =>
      have hk : k < bytes.length := by simpa using h
      have e : bytes.length + 1 - 1 - (k + 1) = bytes.length - 1 - k := by omega
      rw [List.length_cons, e, List.getElem?_cons_succ, ← ih hk, bigEndian]
      have hsplit : 256 ^ bytes.length = 256 ^ (bytes.length - 1 - k) * (256 * 256 ^ k) := by
        rw [← Nat.pow_succ', ← Nat.pow_add]
        congr 1
        omega
      have hp : 0 < 256 ^ (bytes.length - 1 - k) := Nat.pow_pos (by omega)
      rw [hsplit, show b.toNat * (256 ^ (bytes.length - 1 - k) * (256 * 256 ^ k)) + bigEndian bytes
        = 256 ^ (bytes.length - 1 - k) * (256 * (b.toNat * 256 ^ k)) + bigEndian bytes by ring,
        Nat.mul_add_div hp, Nat.mul_add_mod]

@[simp] theorem bytesBE_length (n v : Nat) : (bytesBE n v).length = n := by
  induction n with
  | zero => rfl
  | succ n ih => simp [bytesBE, ih]

/-- Byte `k` of `bytesBE n v` is the digit of `v` at that place. -/
theorem getElem?_bytesBE {n k : Nat} (v : Nat) (h : k < n) :
    (bytesBE n v)[k]? = some (BitVec.ofNat 8 (v / 256 ^ (n - 1 - k))) := by
  induction n generalizing k with
  | zero => omega
  | succ n ih =>
    cases k with
    | zero => simp [bytesBE]
    | succ k =>
      rw [bytesBE, List.getElem?_cons_succ, ih (by omega)]
      congr 4
      omega

theorem toNat_byteAt (w : Word) {k : Nat} (h : k < 32) :
    (byteAt w k).toNat = w.toNat / 256 ^ (31 - k) % 256 := by
  have e : 248 - 8 * k = 8 * (31 - k) := by omega
  rw [byteAt, BitVec.extractLsb'_toNat, e, Nat.shiftRight_eq_div_pow, Nat.pow_mul]

/-- Byte `k` of the Word a 32-byte string stands for is byte `k` of the string. -/
theorem byteAt_wordOfBytes {bytes : List Byte} (hlen : bytes.length = 32) {k : Nat} (h : k < 32) :
    byteAt (wordOfBytes bytes) k = (bytes[k]?).getD 0 := by
  apply BitVec.eq_of_toNat_eq
  have hlt := bigEndian_lt bytes
  have hd := bigEndian_digit bytes (k := k) (by omega)
  rw [hlen] at hlt hd
  have hmod : bigEndian bytes % 2 ^ 256 = bigEndian bytes := Nat.mod_eq_of_lt (by simpa using hlt)
  rw [toNat_byteAt _ h, ← hd, wordOfBytes, wrapNat, BitVec.toNat_ofNat, be_eq_bigEndian, hmod]

/-- Byte `k` of the 32-byte representation of a Word is byte `k` of the Word. -/
theorem getD_bytesBE_word (w : Word) {k : Nat} (h : k < 32) :
    ((bytesBE 32 w.toNat)[k]?).getD 0 = byteAt w k := by
  apply BitVec.eq_of_toNat_eq
  rw [toNat_byteAt _ h, getElem?_bytesBE _ h]
  simp

theorem ceil32_eq_markFor (addr n : Nat) : ceil32 (addr + n) = markFor addr n := rfl

/-! Call data. -/

@[simp] theorem callDataBytes_length (callData : List Byte) (i n : Nat) : (callDataBytes callData i n).length = n := by
  induction n generalizing i with
  | zero => rfl
  | succ n ih => simp [callDataBytes, ih]

/-- Byte `k` of what is read from call data is byte `i + k` of it, and zero past its end. -/
theorem getElem?_callDataBytes (callData : List Byte) {i n k : Nat} (h : k < n) :
    (callDataBytes callData i n)[k]? = some ((callData[i + k]?).getD 0) := by
  induction n generalizing i k with
  | zero => omega
  | succ n ih =>
    cases k with
    | zero => rfl
    | succ k =>
      rw [callDataBytes, List.getElem?_cons_succ, ih (by omega)]
      congr 3
      omega

end Sys2Proof.Laws
end

