-- ==== Sys2Proof/Laws/Decode.lean ====
section
/-! SUPPORT. The decoder and the encoder: immediate bytes, the table's entry for every instruction, and the shape of every
entry. -/

namespace Sys2Proof.Laws

open Sys2Proof.Machine Sys2Proof.Safety

/-! Immediate bytes. -/

@[simp] theorem immediateBytes_length (n : Nat) (bytes : List Byte) : (immediateBytes n bytes).length = n := by
  induction n generalizing bytes with
  | zero => rfl
  | succ n ih => cases bytes <;> simp [immediateBytes, ih]

/-- Byte `k` of the immediate is byte `k` after the opcode, and zero past the end. -/
theorem getElem?_immediateBytes {n k : Nat} (h : k < n) (bytes : List Byte) :
    (immediateBytes n bytes)[k]? = some ((bytes[k]?).getD 0) := by
  induction n generalizing k bytes with
  | zero => omega
  | succ n ih =>
    cases k with
    | zero => cases bytes <;> simp [immediateBytes]
    | succ k =>
      cases bytes with
      | nil => simpa [immediateBytes] using ih (k := k) (by omega) []
      | cons b bytes => simpa [immediateBytes] using ih (k := k) (by omega) bytes

/-- The immediate, read byte by byte. -/
theorem immediateBytes_eq_map (n : Nat) (bytes : List Byte) :
    immediateBytes n bytes = (List.range n).map fun k => (bytes[k]?).getD 0 := by
  apply List.ext_getElem? fun k => ?_
  by_cases h : k < n
  · rw [getElem?_immediateBytes h]
    simp [h]
  · rw [List.getElem?_eq_none (by simpa using h), List.getElem?_eq_none (by simpa using h)]

/-- Where the bytes are all there, the immediate is the front of them. -/
theorem immediateBytes_of_le {n : Nat} {bytes : List Byte} (h : n ≤ bytes.length) :
    immediateBytes n bytes = bytes.take n := by
  induction n generalizing bytes with
  | zero => simp [immediateBytes]
  | succ n ih =>
    cases bytes with
    | nil => simp at h
    | cons b bytes =>
      rw [immediateBytes, ih (by simpa using h), List.take_succ_cons]

/-! The table's entry for an instruction. -/

/-- The entry of PUSHn. -/
theorem table_of_pushOperand {i : Instr} {n : Nat} {imm : List Byte} (h : i.pushOperand = some (n, imm)) :
    ∃ build, table i.opcode = pushEntry n build ∧ build imm = i ∧ i.immediate = imm ∧
      i.wellFormed = (imm.length == n) ∧ i.opcode = BitVec.ofNat 8 (0x5F + n) ∧ 1 ≤ n ∧ n ≤ 32 := by
  cases i <;> simp only [Instr.pushOperand, Option.some.injEq, Prod.mk.injEq, reduceCtorEq] at h <;>
    (obtain ⟨rfl, rfl⟩ := h; exact ⟨_, rfl, rfl, rfl, rfl, rfl, by decide, by decide⟩)

/-- The entry of every other instruction. -/
theorem table_of_plain {i : Instr} (h : i.pushOperand = none) :
    table i.opcode = plainEntry i ∧ i.immediate = [] ∧ i.wellFormed = true := by
  cases i <;> simp only [Instr.pushOperand, reduceCtorEq] at h <;> exact ⟨rfl, rfl, rfl⟩

/-- What an entry builds: an instruction of the entry's opcode byte, whose immediate is what it was built from. -/
theorem build_of_table {op : Byte} {d : Descriptor} (h : table op = some d) (imm : List Byte) :
    (d.build imm).opcode = op ∧ (d.immLen = 0 ∧ (d.build imm).immediate = [] ∧ (d.build imm).wellFormed = true ∨
      0 < d.immLen ∧ (d.build imm).immediate = imm ∧ (d.build imm).wellFormed = (imm.length == d.immLen)) := by
  unfold table at h
  split at h <;>
    first
    | (cases h; exact ⟨rfl, .inl ⟨rfl, rfl, rfl⟩⟩)
    | (cases h; exact ⟨rfl, .inr ⟨by decide, rfl, rfl⟩⟩)
    | exact absurd h (by simp)

/-- The table's `imm_len` by the number of the opcode byte. -/
theorem immLen_eq_pushWidth (op : Byte) : immLen op = pushWidth op := by
  revert op
  decide

/-- The unassigned bytes are those of the listed ranges. -/
theorem table_none_iff (op : Byte) : table op = none ↔ unassignedByte op = true := by
  have h : ∀ op : Byte, (table op).isNone = unassignedByte op := by decide
  rw [← h op, Option.isNone_iff_eq_none]

theorem immLen_of_table {op : Byte} {d : Descriptor} (h : table op = some d) : immLen op = d.immLen := by
  simp [immLen, h]

/-! The decoder. -/

theorem decode_cons_of_table {op : Byte} {d : Descriptor} (h : table op = some d) (bytes : List Byte) :
    decode (op :: bytes) = .ok (d.build (immediateBytes d.immLen bytes)) (bytes.drop d.immLen) := by
  simp [decode, h]

theorem decode_cons_of_none {op : Byte} (h : table op = none) (bytes : List Byte) :
    decode (op :: bytes) = .rejected (.unassigned op) := by
  simp [decode, h]

/-- The instruction decoded has the opcode byte that was read. -/
theorem opcode_of_decode {op : Byte} {bytes rest : List Byte} {i : Instr} (h : decode (op :: bytes) = .ok i rest) :
    i.opcode = op := by
  cases ht : table op with
  | none => rw [decode_cons_of_none ht] at h; cases h
  | some d =>
    rw [decode_cons_of_table ht] at h
    cases h
    exact (build_of_table ht _).1

end Sys2Proof.Laws
end

