-- ==== Sys2Proof/Laws/Memory.lean ====
section
/-! SUPPORT. What the memory operations do, byte by byte, and that they keep the canonical form. -/

namespace Sys2Proof.Laws

open Sys2Proof.Machine Sys2Proof.Safety

@[simp] theorem unlistedByte_eq : unlistedByte = 0 := rfl

@[simp] theorem read_nil (x : Nat) : Memory.read [] x = 0 := rfl

theorem read_cons (a : Nat) (b : Byte) (m : Memory) (x : Nat) :
    Memory.read ((a, b) :: m) x = if x = a then b else m.read x := rfl

/-- An address with no entry reads as zero. -/
theorem read_of_not_mem {m : Memory} {x : Nat} (h : ∀ c ∈ m, c.1 ≠ x) : m.read x = 0 := by
  induction m with
  | nil => rfl
  | cons c m ih =>
    obtain ⟨a, b⟩ := c
    rw [read_cons, if_neg (Ne.symm (h (a, b) (by simp)))]
    exact ih fun c hc => h c (by simp [hc])

theorem erase_ne {m : Memory} {x : Nat} : ∀ c ∈ m.erase x, c.1 ≠ x := by
  intro c hc
  simpa [Memory.erase] using (List.mem_filter.mp hc).2

theorem read_erase (m : Memory) (x y : Nat) : (m.erase x).read y = if y = x then 0 else m.read y := by
  split
  · next h => subst h; exact read_of_not_mem erase_ne
  · next h =>
    induction m with
    | nil => rfl
    | cons c m ih =>
      obtain ⟨a, b⟩ := c
      by_cases hax : a = x
      · subst hax
        simpa [Memory.erase, read_cons, h] using ih
      · simp only [Memory.erase, List.filter_cons, bne_iff_ne, ne_eq, hax, not_false_eq_true, if_true, read_cons] at ih ⊢
        rw [ih]

theorem read_insert {m : Memory} {x : Nat} (h : ∀ c ∈ m, c.1 ≠ x) (v : Byte) (y : Nat) :
    (Memory.insert x v m).read y = if y = x then v else m.read y := by
  induction m with
  | nil => rfl
  | cons c m ih =>
    obtain ⟨a, b⟩ := c
    have hax : a ≠ x := h (a, b) (by simp)
    have ih := ih fun c hc => h c (by simp [hc])
    unfold Memory.insert
    split
    · rfl
    · rw [read_cons, read_cons, ih]
      by_cases hya : y = a
      · simp [hya, hax]
      · simp [hya]

/-- A write sets the byte at its address and no other. -/
theorem read_write (m : Memory) (x : Nat) (v : Byte) (y : Nat) :
    (m.write x v).read y = if y = x then v else m.read y := by
  unfold Memory.write
  split
  · next h => rw [read_erase, h]; rfl
  · rw [read_insert erase_ne, read_erase]
    split <;> rfl

/-! The canonical form. -/

theorem wf_cons {a : Nat} {b : Byte} {m : Memory} :
    Memory.wf ((a, b) :: m) = true ↔ b ≠ 0 ∧ (∀ c ∈ m, a < c.1) ∧ m.wf = true := by
  simp [Memory.wf, and_assoc]

theorem erase_wf {m : Memory} (x : Nat) (h : m.wf = true) : (m.erase x).wf = true := by
  induction m with
  | nil => rfl
  | cons c m ih =>
    obtain ⟨a, b⟩ := c
    obtain ⟨hb, ha, hm⟩ := wf_cons.mp h
    have ih := ih hm
    by_cases hax : a = x
    · simpa [Memory.erase, hax] using ih
    · have : Memory.erase ((a, b) :: m) x = (a, b) :: Memory.erase m x := by simp [Memory.erase, hax]
      rw [this]
      exact wf_cons.mpr ⟨hb, fun c hc => ha c (List.mem_of_mem_filter hc), ih⟩

theorem mem_insert {x : Nat} {v : Byte} {m : Memory} {c : Host.Cell} (h : c ∈ Memory.insert x v m) :
    c = (x, v) ∨ c ∈ m := by
  induction m with
  | nil => exact .inl (by simpa [Memory.insert] using h)
  | cons d m ih =>
    obtain ⟨a, b⟩ := d
    unfold Memory.insert at h
    split at h
    · simpa using h
    · rcases List.mem_cons.mp h with h | h
      · exact .inr (by simp [h])
      · exact (ih h).imp_right fun h => by simp [h]

theorem insert_wf {m : Memory} {x : Nat} {v : Byte} (hv : v ≠ 0) (hx : ∀ c ∈ m, c.1 ≠ x) (h : m.wf = true) :
    (Memory.insert x v m).wf = true := by
  induction m with
  | nil => exact wf_cons.mpr ⟨hv, by simp, rfl⟩
  | cons c m ih =>
    obtain ⟨a, b⟩ := c
    obtain ⟨hb, ha, hm⟩ := wf_cons.mp h
    have hax : a ≠ x := hx (a, b) (by simp)
    unfold Memory.insert
    split
    · next hlt =>
      refine wf_cons.mpr ⟨hv, fun c hc => ?_, h⟩
      rcases List.mem_cons.mp hc with rfl | hc
      · exact hlt
      · exact Nat.lt_trans hlt (ha c hc)
    · next hle =>
      refine wf_cons.mpr ⟨hb, fun c hc => ?_, ih (fun c hc => hx c (by simp [hc])) hm⟩
      rcases mem_insert hc with rfl | hc
      · show a < x
        omega
      · exact ha c hc

/-- A write keeps the canonical form. -/
theorem write_wf {m : Memory} (x : Nat) (v : Byte) (h : m.wf = true) : (m.write x v).wf = true := by
  unfold Memory.write
  split
  · exact erase_wf x h
  · next hv => exact insert_wf hv erase_ne (erase_wf x h)

/-- Writing a byte string keeps the canonical form. -/
theorem writeBytes_wf {m : Memory} (x : Nat) (bytes : List Byte) (h : m.wf = true) :
    (m.writeBytes x bytes).wf = true := by
  induction bytes generalizing m x with
  | nil => exact h
  | cons v bytes ih => exact ih (x + 1) (write_wf x v h)

/-- The reset memory has the canonical form. -/
theorem reset_mem_wf : State.reset.mem.wf = true := rfl

/-! Byte strings in memory. -/

@[simp] theorem readBytes_length (m : Memory) (x n : Nat) : (m.readBytes x n).length = n := by
  induction n generalizing x with
  | zero => rfl
  | succ n ih => simp [Memory.readBytes, ih]

/-- Byte `k` of what `readBytes` answers is the byte at `x + k`. -/
theorem getElem?_readBytes (m : Memory) {x n k : Nat} (h : k < n) :
    (m.readBytes x n)[k]? = some (m.read (x + k)) := by
  induction n generalizing x k with
  | zero => omega
  | succ n ih =>
    cases k with
    | zero => rfl
    | succ k =>
      have := ih (x := x + 1) (k := k) (by omega)
      simp only [Memory.readBytes, List.getElem?_cons_succ, this]
      congr 2
      omega

/-- Writing a byte string sets its bytes in address order and no other byte. -/
theorem read_writeBytes (m : Memory) (x : Nat) (bytes : List Byte) (y : Nat) :
    (m.writeBytes x bytes).read y =
      if x ≤ y ∧ y < x + bytes.length then (bytes[y - x]?).getD 0 else m.read y := by
  induction bytes generalizing m x with
  | nil =>
    rw [if_neg (by simp)]
    rfl
  | cons v bytes ih =>
    show ((m.write x v).writeBytes (x + 1) bytes).read y = _
    rw [ih, read_write]
    by_cases hyx : y = x
    · subst hyx
      simp
    · by_cases hin : x + 1 ≤ y ∧ y < x + 1 + bytes.length
      · have h2 : x ≤ y ∧ y < x + (bytes.length + 1) := by omega
        have h3 : y - x = (y - (x + 1)) + 1 := by omega
        simp only [hin, and_self, if_true, List.length_cons, h2, h3, List.getElem?_cons_succ]
      · have h2 : ¬(x ≤ y ∧ y < x + (bytes.length + 1)) := by omega
        simp only [List.length_cons, if_neg hin, if_neg hyx, if_neg h2]

/-- Addresses outside the bytes written read as before. -/
theorem read_writeBytes_outside (m : Memory) {x : Nat} {bytes : List Byte} {y : Nat}
    (h : y < x ∨ x + bytes.length ≤ y) : (m.writeBytes x bytes).read y = m.read y := by
  rw [read_writeBytes, if_neg (by omega)]

end Sys2Proof.Laws
end

