-- ==== Sys2Proof/Laws/Ops.lean ====
section
/-! SUPPORT. One specification lemma per shared operation: what it answers, said once; callers cite these. -/

namespace Sys2Proof.Laws

open Sys2Proof.Machine Sys2Proof.Safety

@[simp] theorem runBody_ok (s t : State) : runBody s (.ok t) = .next t := rfl

@[simp] theorem runBody_error (s : State) (k : FaultKind) : runBody s (.error k) = .next (faultState k s) := rfl

@[simp] theorem raise_eq (k : FaultKind) (s : State) : raise k s = .next (faultState k s) := rfl

@[simp] theorem bind_ok {ε α β : Type} (a : α) (f : α → Except ε β) : (Except.ok a >>= f) = f a := rfl

@[simp] theorem bind_error {ε α β : Type} (e : ε) (f : α → Except ε β) :
    ((Except.error e : Except ε α) >>= f) = .error e := rfl

@[simp] theorem pure_eq_ok {ε α : Type} (a : α) : (pure a : Except ε α) = .ok a := rfl

/-! The checks. -/

theorem need_of_le {k : Nat} {s : State} (h : k ≤ s.stack.length) : need k s = .ok () :=
  if_neg (by omega)

theorem need_of_lt {k : Nat} {s : State} (h : s.stack.length < k) : need k s = .error .stackUnderflow := if_pos h

theorem room_of_lt {s : State} (h : s.stack.length < 1024) : room 1 s = .ok () :=
  if_neg (by unfold stackLimit; omega)

theorem room_of_le {s : State} (h : 1024 ≤ s.stack.length) : room 1 s = .error .stackOverflow :=
  if_pos (by unfold stackLimit; omega)

/-! The stack operations. -/

theorem push_of_lt {s : State} (h : s.stack.length < 1024) (w : Word) : push w s = .ok (place w s) := by
  simp [push, room_of_lt h]

theorem push_of_le {s : State} (h : 1024 ≤ s.stack.length) (w : Word) : push w s = .error .stackOverflow := by
  simp [push, room_of_le h]

theorem pop_cons {s : State} {w : Word} {below : List Word} (h : s.stack = w :: below) :
    pop s = .ok (w, { s with stack := below }) := by
  simp [pop, h]

theorem peek_eq {s : State} {d : Nat} {w : Word} (h : s.stack[d]? = some w) : peek d s = .ok w := by
  simp [peek, h]

theorem duplicate_ok {s : State} {d : Nat} {w : Word} (hw : s.stack[d]? = some w) (h : s.stack.length < 1024) :
    duplicate d s = .ok (place w s) := by
  have hd : d < s.stack.length := (List.getElem?_eq_some_iff.mp hw).1
  simp [duplicate, need_of_le (k := d + 1) hd, room_of_lt h, peek_eq hw]

theorem duplicate_short {s : State} {d : Nat} (h : s.stack.length < d + 1) :
    duplicate d s = .error .stackUnderflow := by
  simp [duplicate, need_of_lt h]

theorem duplicate_full {s : State} {d : Nat} (hd : d + 1 ≤ s.stack.length) (h : 1024 ≤ s.stack.length) :
    duplicate d s = .error .stackOverflow := by
  simp [duplicate, need_of_le hd, room_of_le h]

theorem swap_ok {s : State} {d : Nat} {top deep : Word} (ht : s.stack[0]? = some top)
    (hd : s.stack[d]? = some deep) :
    swap d s = .ok { s with stack := (s.stack.set 0 deep).set d top } := by
  have hlt : d < s.stack.length := (List.getElem?_eq_some_iff.mp hd).1
  simp [swap, need_of_le (k := d + 1) hlt, peek_eq ht, peek_eq hd]

theorem swap_short {s : State} {d : Nat} (h : s.stack.length < d + 1) : swap d s = .error .stackUnderflow := by
  simp [swap, need_of_lt h]

/-! The operand forms. -/

theorem popOne_cons {s : State} {a : Word} {below : List Word} (h : s.stack = a :: below) :
    popOne s = .ok (a, { s with stack := below }) := by
  simp [popOne, need_of_le (k := 1) (s := s) (by simp [h]), pop_cons h]

theorem popOne_short {s : State} (h : s.stack.length < 1) : popOne s = .error .stackUnderflow := by
  simp [popOne, need_of_lt h]

theorem popTwo_cons {s : State} {b a : Word} {below : List Word} (h : s.stack = b :: a :: below) :
    popTwo s = .ok (b, a, { s with stack := below }) := by
  simp [popTwo, need_of_le (k := 2) (s := s) (by simp [h]), pop, h]

theorem popTwo_short {s : State} (h : s.stack.length < 2) : popTwo s = .error .stackUnderflow := by
  simp [popTwo, need_of_lt h]

theorem popThree_cons {s : State} {m y x : Word} {below : List Word} (h : s.stack = m :: y :: x :: below) :
    popThree s = .ok (m, y, x, { s with stack := below }) := by
  simp [popThree, need_of_le (k := 3) (s := s) (by simp [h]), pop, h]

theorem popThree_short {s : State} (h : s.stack.length < 3) : popThree s = .error .stackUnderflow := by
  simp [popThree, need_of_lt h]

/-! Growth, and the memory primitives. -/

theorem expand_zero (addr : Nat) (s : State) : expand addr 0 s = .ok s := rfl

theorem expand_ok {addr n : Nat} {s : State} (hn : n ≠ 0) (h : markFor addr n ≤ s.memCeiling) :
    expand addr n s = .ok { s with msize := max s.msize (markFor addr n) } := by
  unfold expand
  rw [if_neg hn, ceil32_eq_markFor, if_neg (by omega)]
  split
  · next hgt => rw [Nat.max_eq_right (by omega)]
  · next hle => rw [Nat.max_eq_left (by omega)]

theorem expand_limit {addr n : Nat} {s : State} (hn : n ≠ 0) (h : s.memCeiling < markFor addr n) :
    expand addr n s = .error .memoryLimitExceeded := by
  unfold expand
  rw [if_neg hn, ceil32_eq_markFor, if_pos h]

theorem memRead_zero (addr : Nat) (s : State) : memRead addr 0 s = .ok ([], s) := rfl

theorem memRead_ok {addr n : Nat} {s : State} (hn : n ≠ 0) (h : markFor addr n ≤ s.memCeiling) :
    memRead addr n s = .ok (s.mem.readBytes addr n, { s with msize := max s.msize (markFor addr n) }) := by
  simp [memRead, expand_ok hn h]

theorem memRead_limit {addr n : Nat} {s : State} (hn : n ≠ 0) (h : s.memCeiling < markFor addr n) :
    memRead addr n s = .error .memoryLimitExceeded := by
  simp [memRead, expand_limit hn h]

theorem memWrite_ok {addr : Nat} {v : List Byte} {s : State} (hn : v.length ≠ 0)
    (h : markFor addr v.length ≤ s.memCeiling) :
    memWrite addr v s =
      .ok { s with msize := max s.msize (markFor addr v.length), mem := s.mem.writeBytes addr v } := by
  simp [memWrite, expand_ok hn h]

theorem memWrite_limit {addr : Nat} {v : List Byte} {s : State} (hn : v.length ≠ 0)
    (h : s.memCeiling < markFor addr v.length) : memWrite addr v s = .error .memoryLimitExceeded := by
  simp [memWrite, expand_limit hn h]

/-! The shapes of meanings. -/

theorem unaryOp_cons {op : Word → Word} {s : State} {a : Word} {below : List Word} (h : s.stack = a :: below) :
    unaryOp op s = .next { s with stack := op a :: below, pc := s.pc + 1 } := by
  simp [unaryOp, popOne_cons h, place, complete]

theorem unaryOp_short {op : Word → Word} {s : State} (h : s.stack.length < 1) :
    unaryOp op s = .next (faultState .stackUnderflow s) := by
  simp [unaryOp, popOne_short h]

theorem binaryOp_cons {op : Word → Word → Word} {s : State} {b a : Word} {below : List Word}
    (h : s.stack = b :: a :: below) :
    binaryOp op s = .next { s with stack := op a b :: below, pc := s.pc + 1 } := by
  simp [binaryOp, popTwo_cons h, place, complete]

theorem binaryOp_short {op : Word → Word → Word} {s : State} (h : s.stack.length < 2) :
    binaryOp op s = .next (faultState .stackUnderflow s) := by
  simp [binaryOp, popTwo_short h]

theorem ternaryOp_cons {op : Word → Word → Word → Word} {s : State} {m y x : Word} {below : List Word}
    (h : s.stack = m :: y :: x :: below) :
    ternaryOp op s = .next { s with stack := op x y m :: below, pc := s.pc + 1 } := by
  simp [ternaryOp, popThree_cons h, place, complete]

theorem ternaryOp_short {op : Word → Word → Word → Word} {s : State} (h : s.stack.length < 3) :
    ternaryOp op s = .next (faultState .stackUnderflow s) := by
  simp [ternaryOp, popThree_short h]

theorem pushOp_room {n : Nat} {w : Word} {s : State} (h : s.stack.length < 1024) :
    pushOp n w s = .next { s with stack := w :: s.stack, pc := s.pc + 1 + n } := by
  simp [pushOp, push_of_lt h, place, complete]

theorem pushOp_full {n : Nat} {w : Word} {s : State} (h : 1024 ≤ s.stack.length) :
    pushOp n w s = .next (faultState .stackOverflow s) := by
  simp [pushOp, push_of_le h]

theorem dupDepth_ok {s : State} {d : Nat} {w : Word} (hw : s.stack[d]? = some w) (h : s.stack.length < 1024) :
    dupDepth d s = .next { s with stack := w :: s.stack, pc := s.pc + 1 } := by
  simp [dupDepth, duplicate_ok hw h, place, complete]

theorem dupDepth_short {s : State} {d : Nat} (h : s.stack.length < d + 1) :
    dupDepth d s = .next (faultState .stackUnderflow s) := by
  simp [dupDepth, duplicate_short h]

theorem dupDepth_full {s : State} {d : Nat} (hd : d + 1 ≤ s.stack.length) (h : 1024 ≤ s.stack.length) :
    dupDepth d s = .next (faultState .stackOverflow s) := by
  simp [dupDepth, duplicate_full hd h]

theorem swapDepth_ok {s : State} {d : Nat} {top deep : Word} (ht : s.stack[0]? = some top)
    (hd : s.stack[d]? = some deep) :
    swapDepth d s = .next { s with stack := (s.stack.set 0 deep).set d top, pc := s.pc + 1 } := by
  simp [swapDepth, swap_ok ht hd, complete]

theorem swapDepth_short {s : State} {d : Nat} (h : s.stack.length < d + 1) :
    swapDepth d s = .next (faultState .stackUnderflow s) := by
  simp [swapDepth, swap_short h]

/-- A stack of at least one entry has a top. -/
theorem stack_one {s : State} (h : ¬s.stack.length < 1) : ∃ a below, s.stack = a :: below := by
  match hs : s.stack with
  | [] => simp [hs] at h
  | a :: below => exact ⟨a, below, rfl⟩

theorem stack_two {s : State} (h : ¬s.stack.length < 2) : ∃ b a below, s.stack = b :: a :: below := by
  match hs : s.stack with
  | [] => simp [hs] at h
  | [_] => simp [hs] at h
  | b :: a :: below => exact ⟨b, a, below, rfl⟩

theorem stack_three {s : State} (h : ¬s.stack.length < 3) : ∃ m y x below, s.stack = m :: y :: x :: below := by
  match hs : s.stack with
  | [] => simp [hs] at h
  | [_] => simp [hs] at h
  | [_, _] => simp [hs] at h
  | m :: y :: x :: below => exact ⟨m, y, x, below, rfl⟩

end Sys2Proof.Laws
end

