-- ==== Sys2Proof/Laws/Exec.lean ====
section
/-! SUPPORT. What the memory, jump and halting instructions answer, and one inversion of `exec`: everything an instruction can do
to the state. -/

namespace Sys2Proof.Laws

open Sys2Proof.Machine Sys2Proof.Safety

/-! MLOAD, MSTORE, MSTORE8, REVERT. -/

theorem execMload_ok {s : State} {offset : Word} {below : List Word} (hs : s.stack = offset :: below)
    (h : markFor offset.toNat 32 ≤ s.memCeiling) :
    execMload s = .next { s with
      stack := wordOfBytes (s.mem.readBytes offset.toNat 32) :: below, pc := s.pc + 1,
      msize := max s.msize (markFor offset.toNat 32) } := by
  simp [execMload, popOne_cons hs, loadWord, memWordBytes, memRead_ok (s := { s with stack := below }) (n := 32) (by decide) h,
    place, complete]

theorem execMload_limit {s : State} {offset : Word} {below : List Word} (hs : s.stack = offset :: below)
    (h : s.memCeiling < markFor offset.toNat 32) :
    execMload s = .next (faultState .memoryLimitExceeded s) := by
  simp [execMload, popOne_cons hs, loadWord, memWordBytes,
    memRead_limit (s := { s with stack := below }) (n := 32) (by decide) h]

theorem execMload_short {s : State} (h : s.stack.length < 1) :
    execMload s = .next (faultState .stackUnderflow s) := by
  simp [execMload, popOne_short h]

theorem execMstore_ok {s : State} {offset w : Word} {below : List Word} (hs : s.stack = offset :: w :: below)
    (h : markFor offset.toNat 32 ≤ s.memCeiling) :
    execMstore s = .next { s with
      stack := below, pc := s.pc + 1, msize := max s.msize (markFor offset.toNat 32),
      mem := s.mem.writeBytes offset.toNat (bytesBE 32 w.toNat) } := by
  have h' : markFor offset.toNat (bytesBE 32 w.toNat).length ≤ s.memCeiling := by simpa using h
  simp [execMstore, popTwo_cons hs, storeWord, memWordBytes,
    memWrite_ok (s := { s with stack := below }) (v := bytesBE 32 w.toNat) (by simp) h', complete]

theorem execMstore_limit {s : State} {offset w : Word} {below : List Word} (hs : s.stack = offset :: w :: below)
    (h : s.memCeiling < markFor offset.toNat 32) :
    execMstore s = .next (faultState .memoryLimitExceeded s) := by
  have h' : s.memCeiling < markFor offset.toNat (bytesBE 32 w.toNat).length := by simpa using h
  simp [execMstore, popTwo_cons hs, storeWord, memWordBytes,
    memWrite_limit (s := { s with stack := below }) (v := bytesBE 32 w.toNat) (by simp) h']

theorem execMstore_short {s : State} (h : s.stack.length < 2) :
    execMstore s = .next (faultState .stackUnderflow s) := by
  simp [execMstore, popTwo_short h]

theorem execMstore8_ok {s : State} {offset w : Word} {below : List Word} (hs : s.stack = offset :: w :: below)
    (h : markFor offset.toNat 1 ≤ s.memCeiling) :
    execMstore8 s = .next { s with
      stack := below, pc := s.pc + 1, msize := max s.msize (markFor offset.toNat 1),
      mem := s.mem.writeBytes offset.toNat [w.setWidth 8] } := by
  simp [execMstore8, popTwo_cons hs, storeByte,
    memWrite_ok (s := { s with stack := below }) (v := [w.setWidth 8]) (by simp) (by simpa using h), complete]

theorem execMstore8_limit {s : State} {offset w : Word} {below : List Word} (hs : s.stack = offset :: w :: below)
    (h : s.memCeiling < markFor offset.toNat 1) :
    execMstore8 s = .next (faultState .memoryLimitExceeded s) := by
  simp [execMstore8, popTwo_cons hs, storeByte,
    memWrite_limit (s := { s with stack := below }) (v := [w.setWidth 8]) (by simp) (by simpa using h)]

theorem execMstore8_short {s : State} (h : s.stack.length < 2) :
    execMstore8 s = .next (faultState .stackUnderflow s) := by
  simp [execMstore8, popTwo_short h]

theorem execRevert_empty {s : State} {offset length : Word} {below : List Word}
    (hs : s.stack = offset :: length :: below) (hn : length.toNat = 0) :
    execRevert s = .next { s with stack := below, runState := .haltedRevert, output := some [] } := by
  simp [execRevert, popTwo_cons hs, hn, memRead_zero, halt, haltState]

theorem execRevert_ok {s : State} {offset length : Word} {below : List Word}
    (hs : s.stack = offset :: length :: below) (hn : length.toNat ≠ 0)
    (h : markFor offset.toNat length.toNat ≤ s.memCeiling) :
    execRevert s = .next { s with
      stack := below, runState := .haltedRevert,
      output := some (s.mem.readBytes offset.toNat length.toNat),
      msize := max s.msize (markFor offset.toNat length.toNat) } := by
  simp [execRevert, popTwo_cons hs, memRead_ok (s := { s with stack := below }) hn h, halt, haltState]

theorem execRevert_limit {s : State} {offset length : Word} {below : List Word}
    (hs : s.stack = offset :: length :: below) (hn : length.toNat ≠ 0)
    (h : s.memCeiling < markFor offset.toNat length.toNat) :
    execRevert s = .next (faultState .memoryLimitExceeded s) := by
  simp [execRevert, popTwo_cons hs, memRead_limit (s := { s with stack := below }) hn h]

theorem execRevert_short {s : State} (h : s.stack.length < 2) :
    execRevert s = .next (faultState .stackUnderflow s) := by
  simp [execRevert, popTwo_short h]

/-! JUMP and JUMPI. -/

theorem isValidTarget_iff {code : List Byte} {t : Word} : isValidTarget code t = true ↔ t.toNat ∈ analyse code := by
  simp [isValidTarget]

/-- What the scan records lies within the code it scanned. -/
theorem analyseFrom_lt {code : List Byte} {i skip t : Nat} (h : t ∈ analyseFrom i skip code) : t < i + code.length := by
  induction code generalizing i skip with
  | nil => simp [analyseFrom] at h
  | cons op code ih =>
    have past : ∀ k, t ∈ analyseFrom (i + 1) k code → t < i + (code.length + 1) := fun k hk => by
      have := ih hk
      omega
    cases skip with
    | succ skip => exact past _ h
    | zero =>
      unfold analyseFrom at h
      split at h
      · exact past _ h
      · split at h
        · rcases List.mem_cons.mp h with rfl | h
          · simp
          · exact past _ h
        · exact past _ h

theorem jumpTo_valid {s : State} {dest : Word} (h : dest.toNat ∈ analyse s.code) :
    jumpTo dest s = .ok { s with pc := dest.toNat } := if_pos (isValidTarget_iff.mpr h)

theorem jumpTo_invalid {s : State} {dest : Word} (h : dest.toNat ∉ analyse s.code) :
    jumpTo dest s = .error .invalidJumpDestination := if_neg (mt isValidTarget_iff.mp h)

theorem execJump_valid {s : State} {dest : Word} {below : List Word} (hs : s.stack = dest :: below)
    (h : dest.toNat ∈ analyse s.code) : execJump s = .next { s with stack := below, pc := dest.toNat } := by
  simp [execJump, popOne_cons hs, jumpTo_valid (s := { s with stack := below }) h]

theorem execJump_invalid {s : State} {dest : Word} {below : List Word} (hs : s.stack = dest :: below)
    (h : dest.toNat ∉ analyse s.code) : execJump s = .next (faultState .invalidJumpDestination s) := by
  simp [execJump, popOne_cons hs, jumpTo_invalid (s := { s with stack := below }) h]

theorem execJump_short {s : State} (h : s.stack.length < 1) :
    execJump s = .next (faultState .stackUnderflow s) := by
  simp [execJump, popOne_short h]

theorem execJumpi_fallthrough {s : State} {dest cond : Word} {below : List Word}
    (hs : s.stack = dest :: cond :: below) (hc : cond.toNat = 0) :
    execJumpi s = .next { s with stack := below, pc := s.pc + 1 } := by
  simp [execJumpi, popTwo_cons hs, hc, complete]

theorem execJumpi_valid {s : State} {dest cond : Word} {below : List Word}
    (hs : s.stack = dest :: cond :: below) (hc : cond.toNat ≠ 0) (h : dest.toNat ∈ analyse s.code) :
    execJumpi s = .next { s with stack := below, pc := dest.toNat } := by
  simp only [execJumpi, popTwo_cons hs, bind_ok, if_pos hc]
  rw [jumpTo_valid (s := { s with stack := below }) h]
  rfl

theorem execJumpi_invalid {s : State} {dest cond : Word} {below : List Word}
    (hs : s.stack = dest :: cond :: below) (hc : cond.toNat ≠ 0) (h : dest.toNat ∉ analyse s.code) :
    execJumpi s = .next (faultState .invalidJumpDestination s) := by
  simp only [execJumpi, popTwo_cons hs, bind_ok, if_pos hc]
  rw [jumpTo_invalid (s := { s with stack := below }) h]
  rfl

theorem execJumpi_short {s : State} (h : s.stack.length < 2) :
    execJumpi s = .next (faultState .stackUnderflow s) := by
  simp [execJumpi, popTwo_short h]

/-! The inversion. -/

/-- Everything the instruction `i` can do to the state `s`, with what each case depends on. -/
inductive Effect (i : Instr) (s : State) : State → Prop where
  /-- A fault is taken. -/
  | fault (k : FaultKind) : Effect i s (faultState k s)
  /-- The stack changes and `pc` advances past the instruction. -/
  | advance (stack : List Word) (hlen : stack.length ≤ s.stack.length ∨ stack.length ≤ 1024) (hstop : i ≠ .stop)
      (hrevert : i ≠ .revert) :
      Effect i s { s with stack := stack, pc := s.pc + 1 + immLen i.opcode }
  /-- MLOAD: the high-water mark may rise as well. -/
  | load (stack : List Word) (hlen : stack.length ≤ s.stack.length) (hi : i = .mload) (addr : Nat)
      (hle : markFor addr 32 ≤ s.memCeiling) :
      Effect i s { s with stack := stack, pc := s.pc + 1, msize := max s.msize (markFor addr 32) }
  /-- MSTORE and MSTORE8: bytes are written as well. -/
  | store (stack : List Word) (hlen : stack.length ≤ s.stack.length) (hi : i = .mstore ∨ i = .mstore8) (addr : Nat)
      (bytes : List Byte) (hbytes : bytes.length ≠ 0) (hle : markFor addr bytes.length ≤ s.memCeiling) :
      Effect i s { s with
        stack := stack, pc := s.pc + 1, msize := max s.msize (markFor addr bytes.length),
        mem := s.mem.writeBytes addr bytes }
  /-- JUMP and a taken JUMPI. -/
  | jump (stack : List Word) (hlen : stack.length ≤ s.stack.length) (hi : i = .jump ∨ i = .jumpi) (dest : Nat)
      (hdest : dest ∈ analyse s.code) :
      Effect i s { s with stack := stack, pc := dest }
  /-- STOP. -/
  | stop (hi : i = .stop) : Effect i s { s with runState := .haltedNormal, output := none }
  /-- REVERT. -/
  | revert (stack : List Word) (hlen : stack.length ≤ s.stack.length) (hi : i = .revert) (out : List Byte) (msize : Nat)
      (hge : s.msize ≤ msize) (hle : msize = s.msize ∨ (msize % 32 = 0 ∧ msize ≤ s.memCeiling)) :
      Effect i s { s with stack := stack, runState := .haltedRevert, output := some out, msize := msize }

theorem Effect.of_unaryOp {i : Instr} {s : State} (op : Word → Word) (himm : immLen i.opcode = 0) (h1 : i ≠ .stop)
    (h2 : i ≠ .revert) : ∃ t, unaryOp op s = .next t ∧ Effect i s t := by
  by_cases h : s.stack.length < 1
  · exact ⟨_, unaryOp_short h, .fault _⟩
  · obtain ⟨a, below, hs⟩ := stack_one h
    refine ⟨_, unaryOp_cons hs, ?_⟩
    have := Effect.advance (i := i) (s := s) (op a :: below) (.inl (by simp [hs])) h1 h2
    simpa [himm] using this

theorem Effect.of_binaryOp {i : Instr} {s : State} (op : Word → Word → Word) (himm : immLen i.opcode = 0) (h1 : i ≠ .stop)
    (h2 : i ≠ .revert) : ∃ t, binaryOp op s = .next t ∧ Effect i s t := by
  by_cases h : s.stack.length < 2
  · exact ⟨_, binaryOp_short h, .fault _⟩
  · obtain ⟨b, a, below, hs⟩ := stack_two h
    refine ⟨_, binaryOp_cons hs, ?_⟩
    have := Effect.advance (i := i) (s := s) (op a b :: below) (.inl (by simp [hs])) h1 h2
    simpa [himm] using this

theorem Effect.of_ternaryOp {i : Instr} {s : State} (op : Word → Word → Word → Word) (himm : immLen i.opcode = 0)
    (h1 : i ≠ .stop) (h2 : i ≠ .revert) : ∃ t, ternaryOp op s = .next t ∧ Effect i s t := by
  by_cases h : s.stack.length < 3
  · exact ⟨_, ternaryOp_short h, .fault _⟩
  · obtain ⟨m, y, x, below, hs⟩ := stack_three h
    refine ⟨_, ternaryOp_cons hs, ?_⟩
    have := Effect.advance (i := i) (s := s) (op x y m :: below) (.inl (by simp [hs])) h1 h2
    simpa [himm] using this

theorem Effect.of_pushOp {i : Instr} {s : State} (n : Nat) (w : Word) (himm : immLen i.opcode = n) (h1 : i ≠ .stop)
    (h2 : i ≠ .revert) : ∃ t, pushOp n w s = .next t ∧ Effect i s t := by
  by_cases h : s.stack.length < 1024
  · refine ⟨_, pushOp_room h, ?_⟩
    have := Effect.advance (i := i) (s := s) (w :: s.stack) (.inr (by simpa using h)) h1 h2
    simpa [himm] using this
  · exact ⟨_, pushOp_full (by omega), .fault _⟩

theorem Effect.of_dupDepth {i : Instr} {s : State} (d : Nat) (himm : immLen i.opcode = 0) (h1 : i ≠ .stop)
    (h2 : i ≠ .revert) : ∃ t, dupDepth d s = .next t ∧ Effect i s t := by
  by_cases hd : s.stack.length < d + 1
  · exact ⟨_, dupDepth_short hd, .fault _⟩
  · by_cases h : s.stack.length < 1024
    · have hw : s.stack[d]? = some (s.stack[d]'(by omega)) := List.getElem?_eq_getElem (by omega)
      refine ⟨_, dupDepth_ok hw h, ?_⟩
      have := Effect.advance (i := i) (s := s) (s.stack[d]'(by omega) :: s.stack) (.inr (by simpa using h)) h1 h2
      simpa [himm] using this
    · exact ⟨_, dupDepth_full (by omega) (by omega), .fault _⟩

theorem Effect.of_swapDepth {i : Instr} {s : State} (d : Nat) (himm : immLen i.opcode = 0) (h1 : i ≠ .stop)
    (h2 : i ≠ .revert) : ∃ t, swapDepth d s = .next t ∧ Effect i s t := by
  by_cases hd : s.stack.length < d + 1
  · exact ⟨_, swapDepth_short hd, .fault _⟩
  · have ht : s.stack[0]? = some (s.stack[0]'(by omega)) := List.getElem?_eq_getElem (by omega)
    have hw : s.stack[d]? = some (s.stack[d]'(by omega)) := List.getElem?_eq_getElem (by omega)
    refine ⟨_, swapDepth_ok ht hw, ?_⟩
    have := Effect.advance (i := i) (s := s) ((s.stack.set 0 (s.stack[d]'(by omega))).set d (s.stack[0]'(by omega)))
      (.inl (by simp)) h1 h2
    simpa [himm] using this

theorem Effect.of_pop {s : State} : ∃ t, execPop s = .next t ∧ Effect .pop s t := by
  by_cases h : s.stack.length < 1
  · exact ⟨faultState .stackUnderflow s, by simp [execPop, popOne_short h], .fault _⟩
  · obtain ⟨a, below, hs⟩ := stack_one h
    refine ⟨{ s with stack := below, pc := s.pc + 1 + 0 }, by simp [execPop, popOne_cons hs, complete], ?_⟩
    exact .advance below (.inl (by simp [hs])) (by simp) (by simp)

theorem Effect.of_mload {s : State} : ∃ t, execMload s = .next t ∧ Effect .mload s t := by
  by_cases h : s.stack.length < 1
  · exact ⟨_, execMload_short h, .fault _⟩
  · obtain ⟨offset, below, hs⟩ := stack_one h
    by_cases hc : markFor offset.toNat 32 ≤ s.memCeiling
    · exact ⟨_, execMload_ok hs hc, .load _ (by simp [hs]) rfl _ hc⟩
    · exact ⟨_, execMload_limit hs (by omega), .fault _⟩

theorem Effect.of_mstore {s : State} : ∃ t, execMstore s = .next t ∧ Effect .mstore s t := by
  by_cases h : s.stack.length < 2
  · exact ⟨_, execMstore_short h, .fault _⟩
  · obtain ⟨offset, w, below, hs⟩ := stack_two h
    by_cases hc : markFor offset.toNat 32 ≤ s.memCeiling
    · refine ⟨_, execMstore_ok hs hc, ?_⟩
      have := Effect.store (i := .mstore) (s := s) below (by simp [hs]; omega) (.inl rfl) offset.toNat (bytesBE 32 w.toNat)
        (by simp) (by simpa using hc)
      simpa using this
    · exact ⟨_, execMstore_limit hs (by omega), .fault _⟩

theorem Effect.of_mstore8 {s : State} : ∃ t, execMstore8 s = .next t ∧ Effect .mstore8 s t := by
  by_cases h : s.stack.length < 2
  · exact ⟨_, execMstore8_short h, .fault _⟩
  · obtain ⟨offset, w, below, hs⟩ := stack_two h
    by_cases hc : markFor offset.toNat 1 ≤ s.memCeiling
    · refine ⟨_, execMstore8_ok hs hc, ?_⟩
      exact Effect.store (i := .mstore8) (s := s) below (by simp [hs]; omega) (.inr rfl) offset.toNat [w.setWidth 8]
        (by simp) (by simpa using hc)
    · exact ⟨_, execMstore8_limit hs (by omega), .fault _⟩

theorem Effect.of_revert {s : State} : ∃ t, execRevert s = .next t ∧ Effect .revert s t := by
  by_cases h : s.stack.length < 2
  · exact ⟨_, execRevert_short h, .fault _⟩
  · obtain ⟨offset, length, below, hs⟩ := stack_two h
    by_cases hn : length.toNat = 0
    · exact ⟨_, execRevert_empty hs hn, .revert _ (by simp [hs]; omega) rfl _ _ (Nat.le_refl _) (.inl rfl)⟩
    · by_cases hc : markFor offset.toNat length.toNat ≤ s.memCeiling
      · refine ⟨_, execRevert_ok hs hn hc, .revert _ (by simp [hs]; omega) rfl _ _ (by omega) ?_⟩
        have : markFor offset.toNat length.toNat % 32 = 0 := by unfold markFor; omega
        omega
      · exact ⟨_, execRevert_limit hs hn (by omega), .fault _⟩

theorem Effect.of_jump {s : State} : ∃ t, execJump s = .next t ∧ Effect .jump s t := by
  by_cases h : s.stack.length < 1
  · exact ⟨_, execJump_short h, .fault _⟩
  · obtain ⟨dest, below, hs⟩ := stack_one h
    by_cases hd : dest.toNat ∈ analyse s.code
    · exact ⟨_, execJump_valid hs hd, .jump _ (by simp [hs]) (.inl rfl) _ hd⟩
    · exact ⟨_, execJump_invalid hs hd, .fault _⟩

theorem Effect.of_jumpi {s : State} : ∃ t, execJumpi s = .next t ∧ Effect .jumpi s t := by
  by_cases h : s.stack.length < 2
  · exact ⟨_, execJumpi_short h, .fault _⟩
  · obtain ⟨dest, cond, below, hs⟩ := stack_two h
    by_cases hc : cond.toNat = 0
    · refine ⟨_, execJumpi_fallthrough hs hc, ?_⟩
      exact .advance below (.inl (by simp [hs]; omega)) (by simp) (by simp)
    · by_cases hd : dest.toNat ∈ analyse s.code
      · exact ⟨_, execJumpi_valid hs hc hd, .jump _ (by simp [hs]; omega) (.inr rfl) _ hd⟩
      · exact ⟨_, execJumpi_invalid hs hc hd, .fault _⟩

/-! The parameterized families: PUSHn, DUPn and SWAPn are one shared operation each. -/

theorem exec_of_pushOperand {i : Instr} {n : Nat} {imm : List Byte} (h : i.pushOperand = some (n, imm)) (s : State) :
    exec i s = pushOp n (wordOfBytes imm) s ∧ immLen i.opcode = n ∧ i ≠ .stop ∧ i ≠ .revert := by
  cases i <;> simp only [Instr.pushOperand, Option.some.injEq, Prod.mk.injEq, reduceCtorEq] at h <;>
    (obtain ⟨rfl, rfl⟩ := h; exact ⟨rfl, rfl, by simp, by simp⟩)

theorem exec_of_dupIndex {i : Instr} {n : Nat} (h : i.dupIndex = some n) (s : State) :
    exec i s = dupDepth (n - 1) s ∧ 1 ≤ n ∧ n ≤ 16 ∧ immLen i.opcode = 0 ∧ i ≠ .stop ∧ i ≠ .revert := by
  cases i <;> simp only [Instr.dupIndex, Option.some.injEq, reduceCtorEq] at h <;>
    (obtain rfl := h; exact ⟨rfl, by decide, by decide, rfl, by simp, by simp⟩)

theorem exec_of_swapIndex {i : Instr} {n : Nat} (h : i.swapIndex = some n) (s : State) :
    exec i s = swapDepth n s ∧ 1 ≤ n ∧ n ≤ 16 ∧ immLen i.opcode = 0 ∧ i ≠ .stop ∧ i ≠ .revert := by
  cases i <;> simp only [Instr.swapIndex, Option.some.injEq, reduceCtorEq] at h <;>
    (obtain rfl := h; exact ⟨rfl, by decide, by decide, rfl, by simp, by simp⟩)

theorem Effect.of_pushOperand {i : Instr} {n : Nat} {imm : List Byte} {s : State} (h : i.pushOperand = some (n, imm)) :
    ∃ t, exec i s = .next t ∧ Effect i s t := by
  obtain ⟨he, himm, h1, h2⟩ := exec_of_pushOperand h s
  exact he ▸ Effect.of_pushOp n _ himm h1 h2

theorem Effect.of_dupIndex {i : Instr} {n : Nat} {s : State} (h : i.dupIndex = some n) :
    ∃ t, exec i s = .next t ∧ Effect i s t := by
  obtain ⟨he, -, -, himm, h1, h2⟩ := exec_of_dupIndex h s
  exact he ▸ Effect.of_dupDepth _ himm h1 h2

theorem Effect.of_swapIndex {i : Instr} {n : Nat} {s : State} (h : i.swapIndex = some n) :
    ∃ t, exec i s = .next t ∧ Effect i s t := by
  obtain ⟨he, -, -, himm, h1, h2⟩ := exec_of_swapIndex h s
  exact he ▸ Effect.of_swapDepth _ himm h1 h2

/-- Every instruction answers a next state, and that state is one of the effects. -/
theorem exec_effect (i : Instr) (s : State) : ∃ t, exec i s = .next t ∧ Effect i s t := by
  cases i
  case add => exact Effect.of_binaryOp (i := .add) addWord rfl (by simp) (by simp)
  case mul => exact Effect.of_binaryOp (i := .mul) mulWord rfl (by simp) (by simp)
  case sub => exact Effect.of_binaryOp (i := .sub) subWord rfl (by simp) (by simp)
  case div => exact Effect.of_binaryOp (i := .div) divWord rfl (by simp) (by simp)
  case sdiv => exact Effect.of_binaryOp (i := .sdiv) sdivWord rfl (by simp) (by simp)
  case mod => exact Effect.of_binaryOp (i := .mod) modWord rfl (by simp) (by simp)
  case smod => exact Effect.of_binaryOp (i := .smod) smodWord rfl (by simp) (by simp)
  case exp => exact Effect.of_binaryOp (i := .exp) expWord rfl (by simp) (by simp)
  case lt => exact Effect.of_binaryOp (i := .lt) ltWord rfl (by simp) (by simp)
  case gt => exact Effect.of_binaryOp (i := .gt) gtWord rfl (by simp) (by simp)
  case slt => exact Effect.of_binaryOp (i := .slt) sltWord rfl (by simp) (by simp)
  case sgt => exact Effect.of_binaryOp (i := .sgt) sgtWord rfl (by simp) (by simp)
  case eq => exact Effect.of_binaryOp (i := .eq) eqWord rfl (by simp) (by simp)
  case byte => exact Effect.of_binaryOp (i := .byte) byteWord rfl (by simp) (by simp)
  case shl => exact Effect.of_binaryOp (i := .shl) shlWord rfl (by simp) (by simp)
  case shr => exact Effect.of_binaryOp (i := .shr) shrWord rfl (by simp) (by simp)
  case sar => exact Effect.of_binaryOp (i := .sar) sarWord rfl (by simp) (by simp)
  case and => exact Effect.of_binaryOp (i := .and) andWord rfl (by simp) (by simp)
  case or => exact Effect.of_binaryOp (i := .or) orWord rfl (by simp) (by simp)
  case xor => exact Effect.of_binaryOp (i := .xor) xorWord rfl (by simp) (by simp)
  case iszero => exact Effect.of_unaryOp (i := .iszero) iszeroWord rfl (by simp) (by simp)
  case not => exact Effect.of_unaryOp (i := .not) notWord rfl (by simp) (by simp)
  case addmod => exact Effect.of_ternaryOp (i := .addmod) addmodWord rfl (by simp) (by simp)
  case mulmod => exact Effect.of_ternaryOp (i := .mulmod) mulmodWord rfl (by simp) (by simp)
  case callvalue => exact Effect.of_pushOp (i := .callvalue) 0 _ rfl (by simp) (by simp)
  case calldatasize => exact Effect.of_pushOp (i := .calldatasize) 0 _ rfl (by simp) (by simp)
  case codesize => exact Effect.of_pushOp (i := .codesize) 0 _ rfl (by simp) (by simp)
  case calldataload =>
    exact Effect.of_unaryOp (i := .calldataload)
      (fun i => wordOfBytes (callDataBytes s.callData i.toNat memWordBytes)) rfl (by simp) (by simp)
  case stop => exact ⟨_, rfl, .stop rfl⟩
  case jumpdest => exact ⟨_, rfl, .advance s.stack (.inl (Nat.le_refl _)) (by simp) (by simp)⟩
  case pop => exact Effect.of_pop
  case mload => exact Effect.of_mload
  case mstore => exact Effect.of_mstore
  case mstore8 => exact Effect.of_mstore8
  case jump => exact Effect.of_jump
  case jumpi => exact Effect.of_jumpi
  case revert => exact Effect.of_revert
  all_goals
    first
    | exact Effect.of_pushOperand rfl
    | exact Effect.of_dupIndex rfl
    | exact Effect.of_swapIndex rfl

/-- The inversion of `exec`. -/
theorem effect_of_exec {i : Instr} {s t : State} (h : exec i s = .next t) : Effect i s t := by
  obtain ⟨u, hu, he⟩ := exec_effect i s
  rw [hu] at h
  cases h
  exact he

end Sys2Proof.Laws
end

