-- ==== Sys2Proof/Laws/PerInstr.lean ====
section
/-! SUPPORT. Statements made per instruction. EncodingLength: what the encoder writes is as long as the instruction table says,
`1 + imm_len` bytes (30_encoding.md R50), for every well-formed instruction. -/

namespace Sys2Proof.Laws.EncodingLength

/-- A well-formed instruction is encoded in `1 + imm_len` bytes, `imm_len` being the table's for its opcode byte. -/
def Statement (i : Instr) : Prop :=
  i.wellFormed = true → (encode i).length = 1 + immLen i.opcode

/-- The case of PUSHn: the immediate has the table's length. -/
theorem of_push {i : Instr} {n : Nat} {imm : List Byte} (henc : encode i = i.opcode :: imm)
    (hlen : immLen i.opcode = n) (hwf : i.wellFormed = (imm.length == n)) : Statement i := by
  intro h
  rw [hwf, beq_iff_eq] at h
  rw [henc, hlen, List.length_cons, h, Nat.add_comm]

theorem stop : Statement .stop := fun _ => rfl
theorem add : Statement .add := fun _ => rfl
theorem mul : Statement .mul := fun _ => rfl
theorem sub : Statement .sub := fun _ => rfl
theorem div : Statement .div := fun _ => rfl
theorem sdiv : Statement .sdiv := fun _ => rfl
theorem mod : Statement .mod := fun _ => rfl
theorem smod : Statement .smod := fun _ => rfl
theorem addmod : Statement .addmod := fun _ => rfl
theorem mulmod : Statement .mulmod := fun _ => rfl
theorem exp : Statement .exp := fun _ => rfl
theorem lt : Statement .lt := fun _ => rfl
theorem gt : Statement .gt := fun _ => rfl
theorem slt : Statement .slt := fun _ => rfl
theorem sgt : Statement .sgt := fun _ => rfl
theorem eq : Statement .eq := fun _ => rfl
theorem iszero : Statement .iszero := fun _ => rfl
theorem and : Statement .and := fun _ => rfl
theorem or : Statement .or := fun _ => rfl
theorem xor : Statement .xor := fun _ => rfl
theorem not : Statement .not := fun _ => rfl
theorem byte : Statement .byte := fun _ => rfl
theorem shl : Statement .shl := fun _ => rfl
theorem shr : Statement .shr := fun _ => rfl
theorem sar : Statement .sar := fun _ => rfl
theorem callvalue : Statement .callvalue := fun _ => rfl
theorem calldataload : Statement .calldataload := fun _ => rfl
theorem calldatasize : Statement .calldatasize := fun _ => rfl
theorem codesize : Statement .codesize := fun _ => rfl
theorem pop : Statement .pop := fun _ => rfl
theorem mload : Statement .mload := fun _ => rfl
theorem mstore : Statement .mstore := fun _ => rfl
theorem mstore8 : Statement .mstore8 := fun _ => rfl
theorem jump : Statement .jump := fun _ => rfl
theorem jumpi : Statement .jumpi := fun _ => rfl
theorem jumpdest : Statement .jumpdest := fun _ => rfl
theorem push1 (imm : List Byte) : Statement (.push1 imm) := of_push (n := 1) rfl rfl rfl
theorem push2 (imm : List Byte) : Statement (.push2 imm) := of_push (n := 2) rfl rfl rfl
theorem push3 (imm : List Byte) : Statement (.push3 imm) := of_push (n := 3) rfl rfl rfl
theorem push4 (imm : List Byte) : Statement (.push4 imm) := of_push (n := 4) rfl rfl rfl
theorem push5 (imm : List Byte) : Statement (.push5 imm) := of_push (n := 5) rfl rfl rfl
theorem push6 (imm : List Byte) : Statement (.push6 imm) := of_push (n := 6) rfl rfl rfl
theorem push7 (imm : List Byte) : Statement (.push7 imm) := of_push (n := 7) rfl rfl rfl
theorem push8 (imm : List Byte) : Statement (.push8 imm) := of_push (n := 8) rfl rfl rfl
theorem push9 (imm : List Byte) : Statement (.push9 imm) := of_push (n := 9) rfl rfl rfl
theorem push10 (imm : List Byte) : Statement (.push10 imm) := of_push (n := 10) rfl rfl rfl
theorem push11 (imm : List Byte) : Statement (.push11 imm) := of_push (n := 11) rfl rfl rfl
theorem push12 (imm : List Byte) : Statement (.push12 imm) := of_push (n := 12) rfl rfl rfl
theorem push13 (imm : List Byte) : Statement (.push13 imm) := of_push (n := 13) rfl rfl rfl
theorem push14 (imm : List Byte) : Statement (.push14 imm) := of_push (n := 14) rfl rfl rfl
theorem push15 (imm : List Byte) : Statement (.push15 imm) := of_push (n := 15) rfl rfl rfl
theorem push16 (imm : List Byte) : Statement (.push16 imm) := of_push (n := 16) rfl rfl rfl
theorem push17 (imm : List Byte) : Statement (.push17 imm) := of_push (n := 17) rfl rfl rfl
theorem push18 (imm : List Byte) : Statement (.push18 imm) := of_push (n := 18) rfl rfl rfl
theorem push19 (imm : List Byte) : Statement (.push19 imm) := of_push (n := 19) rfl rfl rfl
theorem push20 (imm : List Byte) : Statement (.push20 imm) := of_push (n := 20) rfl rfl rfl
theorem push21 (imm : List Byte) : Statement (.push21 imm) := of_push (n := 21) rfl rfl rfl
theorem push22 (imm : List Byte) : Statement (.push22 imm) := of_push (n := 22) rfl rfl rfl
theorem push23 (imm : List Byte) : Statement (.push23 imm) := of_push (n := 23) rfl rfl rfl
theorem push24 (imm : List Byte) : Statement (.push24 imm) := of_push (n := 24) rfl rfl rfl
theorem push25 (imm : List Byte) : Statement (.push25 imm) := of_push (n := 25) rfl rfl rfl
theorem push26 (imm : List Byte) : Statement (.push26 imm) := of_push (n := 26) rfl rfl rfl
theorem push27 (imm : List Byte) : Statement (.push27 imm) := of_push (n := 27) rfl rfl rfl
theorem push28 (imm : List Byte) : Statement (.push28 imm) := of_push (n := 28) rfl rfl rfl
theorem push29 (imm : List Byte) : Statement (.push29 imm) := of_push (n := 29) rfl rfl rfl
theorem push30 (imm : List Byte) : Statement (.push30 imm) := of_push (n := 30) rfl rfl rfl
theorem push31 (imm : List Byte) : Statement (.push31 imm) := of_push (n := 31) rfl rfl rfl
theorem push32 (imm : List Byte) : Statement (.push32 imm) := of_push (n := 32) rfl rfl rfl
theorem dup1 : Statement .dup1 := fun _ => rfl
theorem dup2 : Statement .dup2 := fun _ => rfl
theorem dup3 : Statement .dup3 := fun _ => rfl
theorem dup4 : Statement .dup4 := fun _ => rfl
theorem dup5 : Statement .dup5 := fun _ => rfl
theorem dup6 : Statement .dup6 := fun _ => rfl
theorem dup7 : Statement .dup7 := fun _ => rfl
theorem dup8 : Statement .dup8 := fun _ => rfl
theorem dup9 : Statement .dup9 := fun _ => rfl
theorem dup10 : Statement .dup10 := fun _ => rfl
theorem dup11 : Statement .dup11 := fun _ => rfl
theorem dup12 : Statement .dup12 := fun _ => rfl
theorem dup13 : Statement .dup13 := fun _ => rfl
theorem dup14 : Statement .dup14 := fun _ => rfl
theorem dup15 : Statement .dup15 := fun _ => rfl
theorem dup16 : Statement .dup16 := fun _ => rfl
theorem swap1 : Statement .swap1 := fun _ => rfl
theorem swap2 : Statement .swap2 := fun _ => rfl
theorem swap3 : Statement .swap3 := fun _ => rfl
theorem swap4 : Statement .swap4 := fun _ => rfl
theorem swap5 : Statement .swap5 := fun _ => rfl
theorem swap6 : Statement .swap6 := fun _ => rfl
theorem swap7 : Statement .swap7 := fun _ => rfl
theorem swap8 : Statement .swap8 := fun _ => rfl
theorem swap9 : Statement .swap9 := fun _ => rfl
theorem swap10 : Statement .swap10 := fun _ => rfl
theorem swap11 : Statement .swap11 := fun _ => rfl
theorem swap12 : Statement .swap12 := fun _ => rfl
theorem swap13 : Statement .swap13 := fun _ => rfl
theorem swap14 : Statement .swap14 := fun _ => rfl
theorem swap15 : Statement .swap15 := fun _ => rfl
theorem swap16 : Statement .swap16 := fun _ => rfl
theorem revert : Statement .revert := fun _ => rfl

end Sys2Proof.Laws.EncodingLength
end

