-- ==== Sys2Proof/Laws/Step.lean ====
section
/-! SUPPORT. What one step does: the fetch, and one inversion of `step`. -/

namespace Sys2Proof.Laws

open Sys2Proof.Machine Sys2Proof.Safety

/-! The fetch. -/

theorem fetchByte_of_some {code : List Byte} {pc : Nat} {op : Byte} (h : code[pc]? = some op) :
    fetchByte code pc = op := by
  simp [fetchByte, h]

theorem fetchByte_past {code : List Byte} {pc : Nat} (h : code.length ≤ pc) : fetchByte code pc = 0x00 := by
  simp [fetchByte, List.getElem?_eq_none h, Instr.opcode]

/-- Within the code, what the decoder is given is the code from `pc` on. -/
theorem fetchBytes_of_lt {code : List Byte} {pc : Nat} (h : pc < code.length) : fetchBytes code pc = code.drop pc := by
  rw [List.drop_eq_getElem_cons h, fetchBytes, fetchByte_of_some (List.getElem?_eq_getElem h)]

/-! The step. -/

theorem step_running {s : State} (h : s.runState = .running) :
    step s = match decode (fetchBytes s.code s.pc) with
      | .ok i _ => exec i s
      | .rejected _ => .next (faultState .invalidOpcode s) := by
  unfold step
  rw [h]
  rfl

theorem step_ended {s : State} (h : s.runState ≠ .running) : step s = .fault .runEnded := by
  unfold step
  cases hr : s.runState <;> simp_all

/-- The inversion of `step`: a step that answers a state was taken in the Running state, and either the fetched byte is
unassigned and InvalidOpcode is taken, or an instruction with the fetched opcode byte ran. -/
theorem step_cases {s t : State} (h : step s = .next t) :
    s.runState = .running ∧
      ((unassignedByte (fetchByte s.code s.pc) = true ∧ t = faultState .invalidOpcode s) ∨
        ∃ i, i.opcode = fetchByte s.code s.pc ∧ exec i s = .next t ∧ Effect i s t) := by
  by_cases hr : s.runState = .running
  · refine ⟨hr, ?_⟩
    rw [step_running hr] at h
    cases ht : table (fetchByte s.code s.pc) with
    | none =>
      rw [fetchBytes, decode_cons_of_none ht] at h
      cases h
      exact .inl ⟨(table_none_iff _).mp ht, rfl⟩
    | some d =>
      rw [fetchBytes, decode_cons_of_table ht] at h
      exact .inr ⟨_, (build_of_table ht _).1, h, effect_of_exec h⟩
  · rw [step_ended hr] at h
    cases h

/-- In the Running state a step always answers a next state (47_execution_loop.md R165). -/
theorem step_total {s : State} (h : s.runState = .running) : ∃ t, step s = .next t := by
  rw [step_running h]
  split
  · next i _ _ => exact (exec_effect i s).imp fun t ht => ht.1
  · exact ⟨_, rfl⟩

/-! The result. -/

/-- The inversion of `State.result`: a result comes from a terminal state, and its outcome and output are those of that state. -/
theorem result_cases {s : State} {r : ExecutionResult} (h : s.result = some r) :
    r.output = s.output ∧
      ((s.runState = .haltedNormal ∧ r.outcome = .normal) ∨ (s.runState = .haltedRevert ∧ r.outcome = .reverted) ∨
        ∃ k, s.runState = .faulted ∧ s.faultKind = some k ∧ r.outcome = .faulted k) := by
  unfold State.result at h
  split at h
  · cases h
  · next _ hr => cases h; exact ⟨rfl, .inl ⟨hr, rfl⟩⟩
  · next _ hr => cases h; exact ⟨rfl, .inr (.inl ⟨hr, rfl⟩)⟩
  · next k hr hk => cases h; exact ⟨rfl, .inr (.inr ⟨k, hr, hk, rfl⟩)⟩
  · cases h

end Sys2Proof.Laws
end

