-- ==== Sys2Proof/Tests/Slice0.lean ====
section
/-! SUPPORT. The model's own tests, named theorems each about one step, one decoding or one small value; then a witness for every
statement with hypotheses. Expected results are the spec's: the encodings of 30_encoding.md R52 and R55, the vectors of
95_test_vectors.md. The spec writes a stack bottom to top; here the head of the list is the top. -/

namespace Sys2Proof.Tests

open Sys2Proof.Machine Sys2Proof.Safety

/-- A Running state at the start of `code` with the given stack, under the ceiling of the spec's vectors. -/
def machine (code : List Byte) (stack : List Word) : State := { State.launch 65536 code [] 0 with stack := stack }

theorem machine_zeros_length (code : List Byte) (n : Nat) : (machine code (List.replicate n 0)).stack.length = n :=
  List.length_replicate

/-- The state an outcome answers. -/
def stateOf (o : Out) : Option State :=
  match o with
  | .next t => some t
  | .fault _ => none
  | .refused _ => none

/-- The stack after one step over a one-byte code, `none` where a fault is taken. -/
def stackAfter (op : Byte) (stack : List Word) : Option (List Word) :=
  (stateOf (step (machine [op] stack))).bind fun t => if t.runState = .faulted then none else some t.stack

/-- The fault kind after one step over a one-byte code. -/
def faultAfter (op : Byte) (stack : List Word) : Option FaultKind :=
  (stateOf (step (machine [op] stack))).bind fun t => t.faultKind

/-! Decoding: every opcode byte of 30_encoding.md R55. -/

theorem test_decode_arithmetic :
    decode [0x01] = .ok .add [] ∧
    decode [0x02] = .ok .mul [] ∧
    decode [0x03] = .ok .sub [] ∧
    decode [0x04] = .ok .div [] ∧
    decode [0x05] = .ok .sdiv [] ∧
    decode [0x06] = .ok .mod [] ∧
    decode [0x07] = .ok .smod [] ∧
    decode [0x08] = .ok .addmod [] ∧
    decode [0x09] = .ok .mulmod [] ∧
    decode [0x0A] = .ok .exp [] := by decide

theorem test_decode_logic :
    decode [0x10] = .ok .lt [] ∧
    decode [0x11] = .ok .gt [] ∧
    decode [0x12] = .ok .slt [] ∧
    decode [0x13] = .ok .sgt [] ∧
    decode [0x14] = .ok .eq [] ∧
    decode [0x15] = .ok .iszero [] ∧
    decode [0x16] = .ok .and [] ∧
    decode [0x17] = .ok .or [] ∧
    decode [0x18] = .ok .xor [] ∧
    decode [0x19] = .ok .not [] ∧
    decode [0x1A] = .ok .byte [] ∧
    decode [0x1B] = .ok .shl [] ∧
    decode [0x1C] = .ok .shr [] ∧
    decode [0x1D] = .ok .sar [] := by decide

theorem test_decode_context_and_memory :
    decode [0x34] = .ok .callvalue [] ∧
    decode [0x35] = .ok .calldataload [] ∧
    decode [0x36] = .ok .calldatasize [] ∧
    decode [0x38] = .ok .codesize [] ∧
    decode [0x51] = .ok .mload [] ∧
    decode [0x52] = .ok .mstore [] ∧
    decode [0x53] = .ok .mstore8 [] := by decide

theorem test_decode_control :
    decode [0x00] = .ok .stop [] ∧
    decode [0x56] = .ok .jump [] ∧
    decode [0x57] = .ok .jumpi [] ∧
    decode [0x5B] = .ok .jumpdest [] ∧
    decode [0xFD] = .ok .revert [] ∧
    decode [0x50] = .ok .pop [] := by decide

theorem test_decode_push1_to_push8 :
    decode [0x60, 0x11] = .ok (.push1 [0x11]) [] ∧
    decode [0x61, 0x11, 0x12] = .ok (.push2 [0x11, 0x12]) [] ∧
    decode [0x62, 0x11, 0x12, 0x13] = .ok (.push3 [0x11, 0x12, 0x13]) [] ∧
    decode [0x63, 0x11, 0x12, 0x13, 0x14] = .ok (.push4 [0x11, 0x12, 0x13, 0x14]) [] ∧
    decode [0x64, 0x11, 0x12, 0x13, 0x14, 0x15] = .ok (.push5 [0x11, 0x12, 0x13, 0x14, 0x15]) [] ∧
    decode [0x65, 0x11, 0x12, 0x13, 0x14, 0x15, 0x16] = .ok (.push6 [0x11, 0x12, 0x13, 0x14, 0x15, 0x16]) [] ∧
    decode [0x66, 0x11, 0x12, 0x13, 0x14, 0x15, 0x16, 0x17] = .ok (.push7 [0x11, 0x12, 0x13, 0x14, 0x15, 0x16, 0x17]) [] ∧
    decode [0x67, 0x11, 0x12, 0x13, 0x14, 0x15, 0x16, 0x17, 0x18] = .ok (.push8 [0x11, 0x12, 0x13, 0x14, 0x15, 0x16, 0x17, 0x18]) [] := by decide

theorem test_decode_push9_to_push16 :
    decode [0x68, 0x11, 0x12, 0x13, 0x14, 0x15, 0x16, 0x17, 0x18, 0x19] = .ok (.push9 [0x11, 0x12, 0x13, 0x14, 0x15, 0x16, 0x17, 0x18, 0x19]) [] ∧
    decode [0x69, 0x11, 0x12, 0x13, 0x14, 0x15, 0x16, 0x17, 0x18, 0x19, 0x1A] = .ok (.push10 [0x11, 0x12, 0x13, 0x14, 0x15, 0x16, 0x17, 0x18, 0x19, 0x1A]) [] ∧
    decode [0x6A, 0x11, 0x12, 0x13, 0x14, 0x15, 0x16, 0x17, 0x18, 0x19, 0x1A, 0x1B] = .ok (.push11 [0x11, 0x12, 0x13, 0x14, 0x15, 0x16, 0x17, 0x18, 0x19, 0x1A, 0x1B]) [] ∧
    decode [0x6B, 0x11, 0x12, 0x13, 0x14, 0x15, 0x16, 0x17, 0x18, 0x19, 0x1A, 0x1B, 0x1C] = .ok (.push12 [0x11, 0x12, 0x13, 0x14, 0x15, 0x16, 0x17, 0x18, 0x19, 0x1A, 0x1B, 0x1C]) [] ∧
    decode [0x6C, 0x11, 0x12, 0x13, 0x14, 0x15, 0x16, 0x17, 0x18, 0x19, 0x1A, 0x1B, 0x1C, 0x1D] = .ok (.push13 [0x11, 0x12, 0x13, 0x14, 0x15, 0x16, 0x17, 0x18, 0x19, 0x1A, 0x1B, 0x1C, 0x1D]) [] ∧
    decode [0x6D, 0x11, 0x12, 0x13, 0x14, 0x15, 0x16, 0x17, 0x18, 0x19, 0x1A, 0x1B, 0x1C, 0x1D, 0x1E] = .ok (.push14 [0x11, 0x12, 0x13, 0x14, 0x15, 0x16, 0x17, 0x18, 0x19, 0x1A, 0x1B, 0x1C, 0x1D, 0x1E]) [] ∧
    decode [0x6E, 0x11, 0x12, 0x13, 0x14, 0x15, 0x16, 0x17, 0x18, 0x19, 0x1A, 0x1B, 0x1C, 0x1D, 0x1E, 0x1F] = .ok (.push15 [0x11, 0x12, 0x13, 0x14, 0x15, 0x16, 0x17, 0x18, 0x19, 0x1A, 0x1B, 0x1C, 0x1D, 0x1E, 0x1F]) [] ∧
    decode [0x6F, 0x11, 0x12, 0x13, 0x14, 0x15, 0x16, 0x17, 0x18, 0x19, 0x1A, 0x1B, 0x1C, 0x1D, 0x1E, 0x1F, 0x20] = .ok (.push16 [0x11, 0x12, 0x13, 0x14, 0x15, 0x16, 0x17, 0x18, 0x19, 0x1A, 0x1B, 0x1C, 0x1D, 0x1E, 0x1F, 0x20]) [] := by decide

theorem test_decode_push17_to_push24 :
    decode [0x70, 0x11, 0x12, 0x13, 0x14, 0x15, 0x16, 0x17, 0x18, 0x19, 0x1A, 0x1B, 0x1C, 0x1D, 0x1E, 0x1F, 0x20, 0x21] = .ok (.push17 [0x11, 0x12, 0x13, 0x14, 0x15, 0x16, 0x17, 0x18, 0x19, 0x1A, 0x1B, 0x1C, 0x1D, 0x1E, 0x1F, 0x20, 0x21]) [] ∧
    decode [0x71, 0x11, 0x12, 0x13, 0x14, 0x15, 0x16, 0x17, 0x18, 0x19, 0x1A, 0x1B, 0x1C, 0x1D, 0x1E, 0x1F, 0x20, 0x21, 0x22] = .ok (.push18 [0x11, 0x12, 0x13, 0x14, 0x15, 0x16, 0x17, 0x18, 0x19, 0x1A, 0x1B, 0x1C, 0x1D, 0x1E, 0x1F, 0x20, 0x21, 0x22]) [] ∧
    decode [0x72, 0x11, 0x12, 0x13, 0x14, 0x15, 0x16, 0x17, 0x18, 0x19, 0x1A, 0x1B, 0x1C, 0x1D, 0x1E, 0x1F, 0x20, 0x21, 0x22, 0x23] = .ok (.push19 [0x11, 0x12, 0x13, 0x14, 0x15, 0x16, 0x17, 0x18, 0x19, 0x1A, 0x1B, 0x1C, 0x1D, 0x1E, 0x1F, 0x20, 0x21, 0x22, 0x23]) [] ∧
    decode [0x73, 0x11, 0x12, 0x13, 0x14, 0x15, 0x16, 0x17, 0x18, 0x19, 0x1A, 0x1B, 0x1C, 0x1D, 0x1E, 0x1F, 0x20, 0x21, 0x22, 0x23, 0x24] = .ok (.push20 [0x11, 0x12, 0x13, 0x14, 0x15, 0x16, 0x17, 0x18, 0x19, 0x1A, 0x1B, 0x1C, 0x1D, 0x1E, 0x1F, 0x20, 0x21, 0x22, 0x23, 0x24]) [] ∧
    decode [0x74, 0x11, 0x12, 0x13, 0x14, 0x15, 0x16, 0x17, 0x18, 0x19, 0x1A, 0x1B, 0x1C, 0x1D, 0x1E, 0x1F, 0x20, 0x21, 0x22, 0x23, 0x24, 0x25] = .ok (.push21 [0x11, 0x12, 0x13, 0x14, 0x15, 0x16, 0x17, 0x18, 0x19, 0x1A, 0x1B, 0x1C, 0x1D, 0x1E, 0x1F, 0x20, 0x21, 0x22, 0x23, 0x24, 0x25]) [] ∧
    decode [0x75, 0x11, 0x12, 0x13, 0x14, 0x15, 0x16, 0x17, 0x18, 0x19, 0x1A, 0x1B, 0x1C, 0x1D, 0x1E, 0x1F, 0x20, 0x21, 0x22, 0x23, 0x24, 0x25, 0x26] = .ok (.push22 [0x11, 0x12, 0x13, 0x14, 0x15, 0x16, 0x17, 0x18, 0x19, 0x1A, 0x1B, 0x1C, 0x1D, 0x1E, 0x1F, 0x20, 0x21, 0x22, 0x23, 0x24, 0x25, 0x26]) [] ∧
    decode [0x76, 0x11, 0x12, 0x13, 0x14, 0x15, 0x16, 0x17, 0x18, 0x19, 0x1A, 0x1B, 0x1C, 0x1D, 0x1E, 0x1F, 0x20, 0x21, 0x22, 0x23, 0x24, 0x25, 0x26, 0x27] = .ok (.push23 [0x11, 0x12, 0x13, 0x14, 0x15, 0x16, 0x17, 0x18, 0x19, 0x1A, 0x1B, 0x1C, 0x1D, 0x1E, 0x1F, 0x20, 0x21, 0x22, 0x23, 0x24, 0x25, 0x26, 0x27]) [] ∧
    decode [0x77, 0x11, 0x12, 0x13, 0x14, 0x15, 0x16, 0x17, 0x18, 0x19, 0x1A, 0x1B, 0x1C, 0x1D, 0x1E, 0x1F, 0x20, 0x21, 0x22, 0x23, 0x24, 0x25, 0x26, 0x27, 0x28] = .ok (.push24 [0x11, 0x12, 0x13, 0x14, 0x15, 0x16, 0x17, 0x18, 0x19, 0x1A, 0x1B, 0x1C, 0x1D, 0x1E, 0x1F, 0x20, 0x21, 0x22, 0x23, 0x24, 0x25, 0x26, 0x27, 0x28]) [] := by decide

theorem test_decode_push25_to_push32 :
    decode [0x78, 0x11, 0x12, 0x13, 0x14, 0x15, 0x16, 0x17, 0x18, 0x19, 0x1A, 0x1B, 0x1C, 0x1D, 0x1E, 0x1F, 0x20, 0x21, 0x22, 0x23, 0x24, 0x25, 0x26, 0x27, 0x28, 0x29] = .ok (.push25 [0x11, 0x12, 0x13, 0x14, 0x15, 0x16, 0x17, 0x18, 0x19, 0x1A, 0x1B, 0x1C, 0x1D, 0x1E, 0x1F, 0x20, 0x21, 0x22, 0x23, 0x24, 0x25, 0x26, 0x27, 0x28, 0x29]) [] ∧
    decode [0x79, 0x11, 0x12, 0x13, 0x14, 0x15, 0x16, 0x17, 0x18, 0x19, 0x1A, 0x1B, 0x1C, 0x1D, 0x1E, 0x1F, 0x20, 0x21, 0x22, 0x23, 0x24, 0x25, 0x26, 0x27, 0x28, 0x29, 0x2A] = .ok (.push26 [0x11, 0x12, 0x13, 0x14, 0x15, 0x16, 0x17, 0x18, 0x19, 0x1A, 0x1B, 0x1C, 0x1D, 0x1E, 0x1F, 0x20, 0x21, 0x22, 0x23, 0x24, 0x25, 0x26, 0x27, 0x28, 0x29, 0x2A]) [] ∧
    decode [0x7A, 0x11, 0x12, 0x13, 0x14, 0x15, 0x16, 0x17, 0x18, 0x19, 0x1A, 0x1B, 0x1C, 0x1D, 0x1E, 0x1F, 0x20, 0x21, 0x22, 0x23, 0x24, 0x25, 0x26, 0x27, 0x28, 0x29, 0x2A, 0x2B] = .ok (.push27 [0x11, 0x12, 0x13, 0x14, 0x15, 0x16, 0x17, 0x18, 0x19, 0x1A, 0x1B, 0x1C, 0x1D, 0x1E, 0x1F, 0x20, 0x21, 0x22, 0x23, 0x24, 0x25, 0x26, 0x27, 0x28, 0x29, 0x2A, 0x2B]) [] ∧
    decode [0x7B, 0x11, 0x12, 0x13, 0x14, 0x15, 0x16, 0x17, 0x18, 0x19, 0x1A, 0x1B, 0x1C, 0x1D, 0x1E, 0x1F, 0x20, 0x21, 0x22, 0x23, 0x24, 0x25, 0x26, 0x27, 0x28, 0x29, 0x2A, 0x2B, 0x2C] = .ok (.push28 [0x11, 0x12, 0x13, 0x14, 0x15, 0x16, 0x17, 0x18, 0x19, 0x1A, 0x1B, 0x1C, 0x1D, 0x1E, 0x1F, 0x20, 0x21, 0x22, 0x23, 0x24, 0x25, 0x26, 0x27, 0x28, 0x29, 0x2A, 0x2B, 0x2C]) [] ∧
    decode [0x7C, 0x11, 0x12, 0x13, 0x14, 0x15, 0x16, 0x17, 0x18, 0x19, 0x1A, 0x1B, 0x1C, 0x1D, 0x1E, 0x1F, 0x20, 0x21, 0x22, 0x23, 0x24, 0x25, 0x26, 0x27, 0x28, 0x29, 0x2A, 0x2B, 0x2C, 0x2D] = .ok (.push29 [0x11, 0x12, 0x13, 0x14, 0x15, 0x16, 0x17, 0x18, 0x19, 0x1A, 0x1B, 0x1C, 0x1D, 0x1E, 0x1F, 0x20, 0x21, 0x22, 0x23, 0x24, 0x25, 0x26, 0x27, 0x28, 0x29, 0x2A, 0x2B, 0x2C, 0x2D]) [] ∧
    decode [0x7D, 0x11, 0x12, 0x13, 0x14, 0x15, 0x16, 0x17, 0x18, 0x19, 0x1A, 0x1B, 0x1C, 0x1D, 0x1E, 0x1F, 0x20, 0x21, 0x22, 0x23, 0x24, 0x25, 0x26, 0x27, 0x28, 0x29, 0x2A, 0x2B, 0x2C, 0x2D, 0x2E] = .ok (.push30 [0x11, 0x12, 0x13, 0x14, 0x15, 0x16, 0x17, 0x18, 0x19, 0x1A, 0x1B, 0x1C, 0x1D, 0x1E, 0x1F, 0x20, 0x21, 0x22, 0x23, 0x24, 0x25, 0x26, 0x27, 0x28, 0x29, 0x2A, 0x2B, 0x2C, 0x2D, 0x2E]) [] ∧
    decode [0x7E, 0x11, 0x12, 0x13, 0x14, 0x15, 0x16, 0x17, 0x18, 0x19, 0x1A, 0x1B, 0x1C, 0x1D, 0x1E, 0x1F, 0x20, 0x21, 0x22, 0x23, 0x24, 0x25, 0x26, 0x27, 0x28, 0x29, 0x2A, 0x2B, 0x2C, 0x2D, 0x2E, 0x2F] = .ok (.push31 [0x11, 0x12, 0x13, 0x14, 0x15, 0x16, 0x17, 0x18, 0x19, 0x1A, 0x1B, 0x1C, 0x1D, 0x1E, 0x1F, 0x20, 0x21, 0x22, 0x23, 0x24, 0x25, 0x26, 0x27, 0x28, 0x29, 0x2A, 0x2B, 0x2C, 0x2D, 0x2E, 0x2F]) [] ∧
    decode [0x7F, 0x11, 0x12, 0x13, 0x14, 0x15, 0x16, 0x17, 0x18, 0x19, 0x1A, 0x1B, 0x1C, 0x1D, 0x1E, 0x1F, 0x20, 0x21, 0x22, 0x23, 0x24, 0x25, 0x26, 0x27, 0x28, 0x29, 0x2A, 0x2B, 0x2C, 0x2D, 0x2E, 0x2F, 0x30] = .ok (.push32 [0x11, 0x12, 0x13, 0x14, 0x15, 0x16, 0x17, 0x18, 0x19, 0x1A, 0x1B, 0x1C, 0x1D, 0x1E, 0x1F, 0x20, 0x21, 0x22, 0x23, 0x24, 0x25, 0x26, 0x27, 0x28, 0x29, 0x2A, 0x2B, 0x2C, 0x2D, 0x2E, 0x2F, 0x30]) [] := by decide

theorem test_decode_dup :
    decode [0x80] = .ok .dup1 [] ∧
    decode [0x81] = .ok .dup2 [] ∧
    decode [0x82] = .ok .dup3 [] ∧
    decode [0x83] = .ok .dup4 [] ∧
    decode [0x84] = .ok .dup5 [] ∧
    decode [0x85] = .ok .dup6 [] ∧
    decode [0x86] = .ok .dup7 [] ∧
    decode [0x87] = .ok .dup8 [] ∧
    decode [0x88] = .ok .dup9 [] ∧
    decode [0x89] = .ok .dup10 [] ∧
    decode [0x8A] = .ok .dup11 [] ∧
    decode [0x8B] = .ok .dup12 [] ∧
    decode [0x8C] = .ok .dup13 [] ∧
    decode [0x8D] = .ok .dup14 [] ∧
    decode [0x8E] = .ok .dup15 [] ∧
    decode [0x8F] = .ok .dup16 [] := by decide

theorem test_decode_swap :
    decode [0x90] = .ok .swap1 [] ∧
    decode [0x91] = .ok .swap2 [] ∧
    decode [0x92] = .ok .swap3 [] ∧
    decode [0x93] = .ok .swap4 [] ∧
    decode [0x94] = .ok .swap5 [] ∧
    decode [0x95] = .ok .swap6 [] ∧
    decode [0x96] = .ok .swap7 [] ∧
    decode [0x97] = .ok .swap8 [] ∧
    decode [0x98] = .ok .swap9 [] ∧
    decode [0x99] = .ok .swap10 [] ∧
    decode [0x9A] = .ok .swap11 [] ∧
    decode [0x9B] = .ok .swap12 [] ∧
    decode [0x9C] = .ok .swap13 [] ∧
    decode [0x9D] = .ok .swap14 [] ∧
    decode [0x9E] = .ok .swap15 [] ∧
    decode [0x9F] = .ok .swap16 [] := by decide

/-- 95_test_vectors.md 2.3: an immediate cut short by the end of the code is filled with zero bytes. -/
theorem test_decode_truncated_push :
    decode [0x60] = .ok (.push1 [0x00]) [] ∧ decode [0x61, 0xAB] = .ok (.push2 [0xAB, 0x00]) [] ∧
    decode [0x60, 0x5B, 0x5B] = .ok (.push1 [0x5B]) [0x5B] := by decide

/-- 95_test_vectors.md 2.8: unassigned bytes; and no bytes at all are no instruction. -/
theorem test_decode_rejects :
    decode [0x0B] = .rejected (.unassigned 0x0B) ∧ decode [0x5F] = .rejected (.unassigned 0x5F) ∧
    decode [0x20] = .rejected (.unassigned 0x20) ∧ decode [0xF3] = .rejected (.unassigned 0xF3) ∧
    decode [0xFE] = .rejected (.unassigned 0xFE) ∧ decode [0xFF, 0x01] = .rejected (.unassigned 0xFF) ∧
    decode [] = .rejected .noOpcode := by decide

/-- Words numbered as spec/opcode_table.json numbers them: the first byte is bits 7..0. -/
theorem test_decode_table_word :
    decodeTableWord 8 0x03 = some .sub ∧ decodeTableWord 16 0xAB60 = some (.push1 [0xAB]) ∧
    decodeTableWord 24 0x020161 = some (.push2 [0x01, 0x02]) ∧ decodeTableWord 8 0x62 = some (.push3 [0, 0, 0]) ∧
    decodeTableWord 8 0x0C = none := by decide

/-- The instruction placed by `withFetchWord` is the one the next step runs. -/
theorem test_with_fetch_word :
    (stateOf (step (State.reset.withFetchWord 16 0xAB60))).map (fun t => (t.stack, t.pc)) = some ([0xAB], 2) ∧
    (stateOf (step (({ machine [] [7] with pc := 40 } : State).withFetchWord 8 0x50))).map (fun t => (t.stack, t.pc)) =
      some ([], 41) := by decide

/-! Well-formedness: an immediate one byte short and one byte long is refused, for each width. -/

theorem test_ill_formed_push1_to_push8 :
    (Instr.push1 (List.replicate 0 0)).wellFormed = false ∧ (Instr.push1 (List.replicate 2 0)).wellFormed = false ∧
    (Instr.push2 (List.replicate 1 0)).wellFormed = false ∧ (Instr.push2 (List.replicate 3 0)).wellFormed = false ∧
    (Instr.push3 (List.replicate 2 0)).wellFormed = false ∧ (Instr.push3 (List.replicate 4 0)).wellFormed = false ∧
    (Instr.push4 (List.replicate 3 0)).wellFormed = false ∧ (Instr.push4 (List.replicate 5 0)).wellFormed = false ∧
    (Instr.push5 (List.replicate 4 0)).wellFormed = false ∧ (Instr.push5 (List.replicate 6 0)).wellFormed = false ∧
    (Instr.push6 (List.replicate 5 0)).wellFormed = false ∧ (Instr.push6 (List.replicate 7 0)).wellFormed = false ∧
    (Instr.push7 (List.replicate 6 0)).wellFormed = false ∧ (Instr.push7 (List.replicate 8 0)).wellFormed = false ∧
    (Instr.push8 (List.replicate 7 0)).wellFormed = false ∧ (Instr.push8 (List.replicate 9 0)).wellFormed = false := by decide

theorem test_ill_formed_push9_to_push16 :
    (Instr.push9 (List.replicate 8 0)).wellFormed = false ∧ (Instr.push9 (List.replicate 10 0)).wellFormed = false ∧
    (Instr.push10 (List.replicate 9 0)).wellFormed = false ∧ (Instr.push10 (List.replicate 11 0)).wellFormed = false ∧
    (Instr.push11 (List.replicate 10 0)).wellFormed = false ∧ (Instr.push11 (List.replicate 12 0)).wellFormed = false ∧
    (Instr.push12 (List.replicate 11 0)).wellFormed = false ∧ (Instr.push12 (List.replicate 13 0)).wellFormed = false ∧
    (Instr.push13 (List.replicate 12 0)).wellFormed = false ∧ (Instr.push13 (List.replicate 14 0)).wellFormed = false ∧
    (Instr.push14 (List.replicate 13 0)).wellFormed = false ∧ (Instr.push14 (List.replicate 15 0)).wellFormed = false ∧
    (Instr.push15 (List.replicate 14 0)).wellFormed = false ∧ (Instr.push15 (List.replicate 16 0)).wellFormed = false ∧
    (Instr.push16 (List.replicate 15 0)).wellFormed = false ∧ (Instr.push16 (List.replicate 17 0)).wellFormed = false := by decide

theorem test_ill_formed_push17_to_push24 :
    (Instr.push17 (List.replicate 16 0)).wellFormed = false ∧ (Instr.push17 (List.replicate 18 0)).wellFormed = false ∧
    (Instr.push18 (List.replicate 17 0)).wellFormed = false ∧ (Instr.push18 (List.replicate 19 0)).wellFormed = false ∧
    (Instr.push19 (List.replicate 18 0)).wellFormed = false ∧ (Instr.push19 (List.replicate 20 0)).wellFormed = false ∧
    (Instr.push20 (List.replicate 19 0)).wellFormed = false ∧ (Instr.push20 (List.replicate 21 0)).wellFormed = false ∧
    (Instr.push21 (List.replicate 20 0)).wellFormed = false ∧ (Instr.push21 (List.replicate 22 0)).wellFormed = false ∧
    (Instr.push22 (List.replicate 21 0)).wellFormed = false ∧ (Instr.push22 (List.replicate 23 0)).wellFormed = false ∧
    (Instr.push23 (List.replicate 22 0)).wellFormed = false ∧ (Instr.push23 (List.replicate 24 0)).wellFormed = false ∧
    (Instr.push24 (List.replicate 23 0)).wellFormed = false ∧ (Instr.push24 (List.replicate 25 0)).wellFormed = false := by decide

theorem test_ill_formed_push25_to_push32 :
    (Instr.push25 (List.replicate 24 0)).wellFormed = false ∧ (Instr.push25 (List.replicate 26 0)).wellFormed = false ∧
    (Instr.push26 (List.replicate 25 0)).wellFormed = false ∧ (Instr.push26 (List.replicate 27 0)).wellFormed = false ∧
    (Instr.push27 (List.replicate 26 0)).wellFormed = false ∧ (Instr.push27 (List.replicate 28 0)).wellFormed = false ∧
    (Instr.push28 (List.replicate 27 0)).wellFormed = false ∧ (Instr.push28 (List.replicate 29 0)).wellFormed = false ∧
    (Instr.push29 (List.replicate 28 0)).wellFormed = false ∧ (Instr.push29 (List.replicate 30 0)).wellFormed = false ∧
    (Instr.push30 (List.replicate 29 0)).wellFormed = false ∧ (Instr.push30 (List.replicate 31 0)).wellFormed = false ∧
    (Instr.push31 (List.replicate 30 0)).wellFormed = false ∧ (Instr.push31 (List.replicate 32 0)).wellFormed = false ∧
    (Instr.push32 (List.replicate 31 0)).wellFormed = false ∧ (Instr.push32 (List.replicate 33 0)).wellFormed = false := by decide

theorem test_well_formed_push :
    (Instr.push1 [0]).wellFormed = true ∧ (Instr.push32 (List.replicate 32 0)).wellFormed = true := by decide

/-! One step, from the vectors of 95_test_vectors.md parts 1 and 2. -/

theorem test_add :
    stackAfter 0x01 [2, 1] = some [3] ∧
    stackAfter 0x01 [1, ones] = some [0] ∧
    stackAfter 0x01 [ones, ones, 7] = some [(wrap (-2)), 7] ∧
    faultAfter 0x01 [5] = some .stackUnderflow := by decide

theorem test_sub :
    stackAfter 0x03 [3, 10] = some [7] ∧
    stackAfter 0x03 [10, 3] = some [(wrap (-7))] ∧
    stackAfter 0x03 [1, minWord] = some [(wrap (2 ^ 255 - 1))] := by decide

theorem test_mul :
    stackAfter 0x02 [4, 3] = some [12] ∧
    stackAfter 0x02 [ones, ones] = some [1] ∧
    stackAfter 0x02 [0x100000000000000000000000000000000, 0x100000000000000000000000000000000] = some [0] := by decide

theorem test_div :
    stackAfter 0x04 [3, 10] = some [3] ∧
    stackAfter 0x04 [0, 7] = some [0] ∧
    stackAfter 0x04 [ones, minWord] = some [0] := by decide

theorem test_mod :
    stackAfter 0x06 [3, 10] = some [1] ∧
    stackAfter 0x06 [0, 7] = some [0] := by decide

theorem test_sdiv :
    stackAfter 0x05 [2, (wrap (-7))] = some [(wrap (-3))] ∧
    stackAfter 0x05 [(wrap (-2)), 7] = some [(wrap (-3))] ∧
    stackAfter 0x05 [ones, minWord] = some [minWord] ∧
    stackAfter 0x05 [0, (wrap (-7))] = some [0] := by decide

theorem test_smod :
    stackAfter 0x07 [3, (wrap (-7))] = some [(wrap (-1))] ∧
    stackAfter 0x07 [(wrap (-3)), 7] = some [1] ∧
    stackAfter 0x07 [ones, minWord] = some [0] ∧
    stackAfter 0x07 [0, 7] = some [0] := by decide

theorem test_addmod :
    stackAfter 0x08 [8, 10, 10] = some [4] ∧
    stackAfter 0x08 [3, 1, ones] = some [1] ∧
    stackAfter 0x08 [0, 6, 5] = some [0] := by decide

theorem test_mulmod :
    stackAfter 0x09 [12, ones, ones] = some [9] ∧
    stackAfter 0x09 [3, 2, minWord] = some [1] ∧
    stackAfter 0x09 [0, 6, 5] = some [0] ∧
    faultAfter 0x09 [2, 1] = some .stackUnderflow := by decide

theorem test_exp :
    stackAfter 0x0A [10, 2] = some [0x400] ∧
    stackAfter 0x0A [2, 10] = some [0x64] ∧
    stackAfter 0x0A [0, 0] = some [1] := by decide +kernel

theorem test_exp_huge :
    stackAfter 0x0A [ones, 3] = some [0xAAAAAAAAAAAAAAAAAAAAAAAAAAAAAAAAAAAAAAAAAAAAAAAAAAAAAAAAAAAAAAAB] ∧
    faultAfter 0x0A [] = some .stackUnderflow := by decide +kernel

theorem test_lt :
    stackAfter 0x10 [2, 1] = some [1] ∧
    stackAfter 0x10 [0, ones] = some [0] ∧
    stackAfter 0x10 [5, 5] = some [0] ∧
    faultAfter 0x10 [1] = some .stackUnderflow := by decide

theorem test_gt :
    stackAfter 0x11 [1, 2] = some [1] ∧
    stackAfter 0x11 [0, ones] = some [1] ∧
    stackAfter 0x11 [5, 5] = some [0] := by decide

theorem test_slt :
    stackAfter 0x12 [0, ones] = some [1] ∧
    stackAfter 0x12 [minWord, (wrap (2 ^ 255 - 1))] = some [0] ∧
    stackAfter 0x12 [5, 5] = some [0] := by decide

theorem test_sgt :
    stackAfter 0x13 [ones, 0] = some [1] ∧
    stackAfter 0x13 [0, ones] = some [0] ∧
    stackAfter 0x13 [minWord, minWord] = some [0] := by decide

theorem test_eq :
    stackAfter 0x14 [5, 5] = some [1] ∧
    stackAfter 0x14 [minWord, 0] = some [0] := by decide

theorem test_iszero :
    stackAfter 0x15 [0, 7] = some [1, 7] ∧
    stackAfter 0x15 [minWord] = some [0] := by decide

theorem test_and :
    stackAfter 0x16 [0xFF00, 0xF0F0] = some [0xF000] ∧
    stackAfter 0x16 [(wrap (2 ^ 255 - 1)), minWord] = some [0] := by decide

theorem test_or :
    stackAfter 0x17 [0x0F0F, 0xF0F0] = some [0xFFFF] ∧
    stackAfter 0x17 [(wrap (2 ^ 255 - 1)), minWord] = some [ones] := by decide

theorem test_xor :
    stackAfter 0x18 [0x0FF0, 0xFF00] = some [0xF0F0] ∧
    stackAfter 0x18 [15, ones] = some [(wrap (-16))] := by decide

theorem test_not :
    stackAfter 0x19 [0] = some [ones] ∧
    stackAfter 0x19 [minWord] = some [(wrap (2 ^ 255 - 1))] ∧
    faultAfter 0x19 [] = some .stackUnderflow := by decide

theorem test_byte :
    stackAfter 0x1A [0xAB00000000000000000000000000000000000000000000000000000000000000, 0] = some [0xAB] ∧
    stackAfter 0x1A [0x1234, 31] = some [0x34] ∧
    stackAfter 0x1A [ones, 32] = some [0] := by decide

theorem test_shl :
    stackAfter 0x1B [255, 1] = some [minWord] ∧
    stackAfter 0x1B [4, ones] = some [(wrap (-16))] ∧
    stackAfter 0x1B [256, 1] = some [0] := by decide

theorem test_shr :
    stackAfter 0x1C [255, minWord] = some [1] ∧
    stackAfter 0x1C [8, 0x1234] = some [0x12] ∧
    stackAfter 0x1C [256, minWord] = some [0] := by decide

theorem test_sar :
    stackAfter 0x1D [1, (wrap (-7))] = some [(wrap (-4))] ∧
    stackAfter 0x1D [256, minWord] = some [ones] ∧
    stackAfter 0x1D [256, (wrap (2 ^ 255 - 1))] = some [0] ∧
    stackAfter 0x1D [4, 0x1234] = some [0x123] := by decide

theorem test_pop :
    stackAfter 0x50 [2, 1] = some [1] ∧
    faultAfter 0x50 [] = some .stackUnderflow := by decide

/-- 95_test_vectors.md 2.3, PUSHn run from reset for one step. -/
theorem test_push :
    (stateOf (step (machine [0x61, 0x01, 0x02] []))).map (fun t => (t.stack, t.pc)) = some ([0x0102], 3) ∧
    (stateOf (step (machine [0x63, 0xDE, 0xAD, 0xBE, 0xEF] []))).map (fun t => (t.stack, t.pc)) = some ([0xDEADBEEF], 5) ∧
    (stateOf (step (machine [0x61, 0xAB] []))).map (fun t => (t.stack, t.pc)) = some ([0xAB00], 3) := by decide

theorem test_push32 :
    (stateOf (step (machine [0x7F, 0xAA] []))).map (fun t => (t.stack, t.pc)) =
      some ([0xAA00000000000000000000000000000000000000000000000000000000000000], 33) := by decide

/-- Sixteen entries, `0xB1` on top and `0xA2` at the bottom. -/
def sixteen : List Word :=
  [0xB1, 0xB0, 0xAF, 0xAE, 0xAD, 0xAC, 0xAB, 0xAA, 0xA9, 0xA8, 0xA7, 0xA6, 0xA5, 0xA4, 0xA3, 0xA2]

theorem test_dup :
    stackAfter 0x80 [0x0B, 0x0A] = some [0x0B, 0x0B, 0x0A] ∧ stackAfter 0x81 [0x0B, 0x0A] = some [0x0A, 0x0B, 0x0A] ∧
    stackAfter 0x87 sixteen = some (0xAA :: sixteen) ∧ stackAfter 0x8F sixteen = some (0xA2 :: sixteen) ∧
    faultAfter 0x81 [0x0A] = some .stackUnderflow ∧ faultAfter 0x8F (sixteen.take 15) = some .stackUnderflow := by decide

theorem test_swap :
    stackAfter 0x90 [0x0B, 0x0A] = some [0x0A, 0x0B] ∧ stackAfter 0x91 [0x0C, 0x0B, 0x0A] = some [0x0A, 0x0B, 0x0C] ∧
    stackAfter 0x9F (sixteen ++ [0xA1]) = some (0xA1 :: sixteen.drop 1 ++ [0xB1]) ∧
    faultAfter 0x90 [0x0A] = some .stackUnderflow ∧ faultAfter 0x9F sixteen = some .stackUnderflow := by decide

/-- A full stack (95_test_vectors.md, stack-limit vectors): the net growth decides. -/
theorem test_full_stack :
    faultAfter 0x60 (List.replicate 1024 0) = some .stackOverflow ∧
    faultAfter 0x8F (List.replicate 1024 0) = some .stackOverflow ∧
    faultAfter 0x38 (List.replicate 1024 0) = some .stackOverflow ∧
    (stackAfter 0x60 (List.replicate 1023 0)).map List.length = some 1024 ∧
    (stackAfter 0x9F (List.replicate 1024 0)).map List.length = some 1024 ∧
    (stackAfter 0x15 (List.replicate 1024 0)).map List.length = some 1024 := by decide +kernel

/-- 95_test_vectors.md 2.4. -/
theorem test_mload :
    (stateOf (step (machine [0x51] [1]))).map (fun t => (t.stack, t.msize)) = some ([0], 64) ∧
    (stateOf (step { machine [0x51] [0x10] with mem := [(31, 1), (32, 2)], msize := 64 })).map (fun t => (t.stack, t.msize)) =
      some ([0x0000000000000000000000000000000102000000000000000000000000000000], 64) ∧
    faultAfter 0x51 [0xFFE1] = some .memoryLimitExceeded ∧ faultAfter 0x51 [ones] = some .memoryLimitExceeded ∧
    faultAfter 0x51 [] = some .stackUnderflow := by decide

theorem test_mstore :
    (stateOf (step (machine [0x52] [0xFFE0, 0x2A]))).map (fun t => (t.stack, t.mem, t.msize)) =
      some ([], [(65535, 0x2A)], 65536) ∧
    (stateOf (step { machine [0x52] [0, 0] with mem := [(31, 0xFF)], msize := 32 })).map (fun t => (t.mem, t.msize)) =
      some ([], 32) ∧
    faultAfter 0x52 [0xFFE1, 0x2A] = some .memoryLimitExceeded ∧ faultAfter 0x52 [ones] = some .stackUnderflow := by
  decide +kernel

theorem test_mstore8 :
    (stateOf (step (machine [0x53] [0x20, 0x1FF]))).map (fun t => (t.mem, t.msize)) = some ([(32, 0xFF)], 64) ∧
    (stateOf (step (machine [0x53] [0, 0x100]))).map (fun t => (t.mem, t.msize)) = some ([], 32) ∧
    faultAfter 0x53 [0x10000, 0xFF] = some .memoryLimitExceeded := by decide

/-- 95_test_vectors.md 2.5, the scan. -/
theorem test_analyse :
    analyse [0x5B, 0x5B, 0x00, 0x5B] = [0, 1, 3] ∧ analyse [0x60, 0x5B, 0x5B] = [2] ∧
    analyse [0x61, 0x5B, 0x5B, 0x5B] = [3] ∧ analyse [0x7F, 0x5B, 0x5B] = [] ∧ analyse [0x0C, 0x5B] = [1] ∧
    analyse [0xFD, 0x5B, 0x00, 0x5B] = [1, 3] := by decide

theorem test_jump :
    (stateOf (step { machine [0x60, 0x03, 0x56, 0x5B, 0x00] [3] with pc := 2 })).map (fun t => (t.stack, t.pc)) = some ([], 3) ∧
    (stateOf (step { machine [0x60, 0x04, 0x56, 0x5B, 0x00] [4] with pc := 2 })).map (fun t => (t.stack, t.pc, t.faultKind)) =
      some ([4], 2, some .invalidJumpDestination) ∧
    faultAfter 0x56 [ones] = some .invalidJumpDestination ∧ faultAfter 0x56 [] = some .stackUnderflow := by decide

theorem test_jumpi :
    (stateOf (step (machine [0x57, 0x00, 0x5B] [2, minWord]))).map (fun t => (t.stack, t.pc)) = some ([], 2) ∧
    (stateOf (step (machine [0x57, 0x00, 0x5B] [0xFF, 0]))).map (fun t => (t.stack, t.pc)) = some ([], 1) ∧
    faultAfter 0x57 [0xFF, 1] = some .invalidJumpDestination ∧ faultAfter 0x57 [6] = some .stackUnderflow := by decide

theorem test_jumpdest :
    (stateOf (step (machine [0x5B] [7]))).map (fun t => (t.stack, t.pc)) = some ([7], 1) := by decide

/-- 95_test_vectors.md 2.6. -/
theorem test_context :
    (stateOf (step { machine [0x34] [7] with callValue := ones })).map (fun t => t.stack) = some [ones, 7] ∧
    (stateOf (step { machine [0x36] [] with callData := [0xAA, 0xBB, 0xCC, 0xDD] })).map (fun t => t.stack) = some [4] ∧
    (stateOf (step (machine [0x38, 0x50, 0x00] []))).map (fun t => t.stack) = some [3] := by decide

theorem test_calldataload :
    (stateOf (step { machine [0x35] [2] with callData := [0xAA, 0xBB, 0xCC, 0xDD] })).map (fun t => t.stack) =
      some [0xCCDD000000000000000000000000000000000000000000000000000000000000] ∧
    (stateOf (step { machine [0x35] [ones] with callData := [0xAA, 0xBB, 0xCC, 0xDD] })).map (fun t => t.stack) = some [0] := by
  decide +kernel

/-- 95_test_vectors.md 2.7. -/
theorem test_stop :
    (stateOf (step (machine [0x00] [7]))).map (fun t => (t.runState, t.pc, t.stack, t.output)) =
      some (.haltedNormal, 0, [7], none) ∧
    (stateOf (step (machine [] []))).map (fun t => t.runState) = some .haltedNormal := by decide

theorem test_revert :
    (stateOf (step { machine [0xFD] [0x1E, 2] with mem := [(31, 0x2A)], msize := 32 })).map
      (fun t => (t.runState, t.output, t.msize)) = some (.haltedRevert, some [0x00, 0x2A], 32) ∧
    (stateOf (step (machine [0xFD] [ones, 0]))).map (fun t => (t.runState, t.output, t.msize)) =
      some (.haltedRevert, some [], 0) ∧
    faultAfter 0xFD [0x10000, 1] = some .memoryLimitExceeded ∧ faultAfter 0xFD [0x20] = some .stackUnderflow := by decide

/-- 60_exceptions.md R187. -/
theorem test_faults :
    faultAfter 0xFE [] = some .invalidOpcode ∧ faultAfter 0x0B [1, 2, 3] = some .invalidOpcode ∧
    faultAfter 0x8F [1] = some .stackUnderflow := by decide

theorem test_no_step_after_the_end :
    step { machine [0x01] [1, 2] with runState := .faulted } = .fault .runEnded ∧
    step { machine [0x01] [1, 2] with runState := .haltedNormal } = .fault .runEnded ∧
    step { machine [0x01] [1, 2] with runState := .haltedRevert } = .fault .runEnded := ⟨rfl, rfl, rfl⟩

/-! Witnesses: for each statement with hypotheses, concrete states and operands that meet them, clause by clause. -/

/-- A state in the middle of a run: after PUSH1 0x20, at an MLOAD, with a stored byte and 32 bytes of memory. -/
def midRun : State := { machine [0x60, 0x20, 0x51] [0x20] with pc := 2, mem := [(31, 0x2A)], msize := 32 }

theorem midRun_boundary : Boundary midRun.code 2 := Boundary.next 0 0x60 .entry rfl

theorem midRun_invariant : RunInv midRun where
  stack_le := by decide
  mem_wf := by decide
  msize_aligned := rfl
  msize_le := by decide
  mem_above := fun a ha => by
    have h32 : 32 ≤ a := ha
    simp only [midRun, Memory.read, unlistedByte]
    rw [if_neg (by omega)]
  fault_iff := by decide
  output_iff := by decide
  boundary := midRun_boundary
  pc_le := by decide

theorem midRun_step :
    step midRun = .next { machine [0x60, 0x20, 0x51] [0] with pc := 3, mem := [(31, 0x2A)], msize := 64 } := rfl

theorem witness_StepKeepsInvariant : RunInv midRun ∧ ∃ t, step midRun = .next t := ⟨midRun_invariant, _, midRun_step⟩

theorem witness_LaunchInputsNeverChange : ∃ t, step midRun = .next t := ⟨_, midRun_step⟩

theorem witness_OnlyTheNamedInstructionsWrite :
    (∃ t, step midRun = .next t ∧ midRun.code[midRun.pc]? ≠ some 0x52 ∧ midRun.code[midRun.pc]? ≠ some 0x53) ∧
    (∃ t, step (machine [0x5B] []) = .next t ∧ (machine [0x5B] []).pc < (machine [0x5B] []).code.length ∧
      (machine [0x5B] []).code[0]? = some 0x5B) :=
  ⟨⟨_, midRun_step, by decide, by decide⟩, ⟨_, rfl, by decide, by decide⟩⟩

theorem witness_MemoryFormIsCanonical :
    let m₁ := (Memory.write [] 9 1).write 3 7
    let m₂ := (Memory.write [] 3 7).write 9 1
    m₁.wf = true ∧ m₂.wf = true ∧ ∀ a, m₁.read a = m₂.read a := ⟨by decide, by decide, fun _ => rfl⟩

theorem witness_DecodeOfEncode :
    (Instr.push2 [0x01, 0x02]).wellFormed = true ∧ (Instr.push32 (List.replicate 32 0xFF)).wellFormed = true ∧
    Instr.sub.wellFormed = true := by decide

theorem witness_EncodeOfDecode :
    decode (0x61 :: [0x01, 0x02, 0x00]) = .ok (.push2 [0x01, 0x02]) [0x00] ∧ pushWidth 0x61 ≤ [0x01, 0x02, 0x00].length ∧
    decode (0x61 :: [0x01]) = .ok (.push2 [0x01, 0x00]) [] ∧ decode (0x03 :: []) = .ok .sub [] := by decide

theorem witness_UnassignedBytesAreRejected :
    unassignedByte 0x0B = true ∧ unassignedByte 0x0F = true ∧ unassignedByte 0x1E = true ∧ unassignedByte 0x33 = true ∧
    unassignedByte 0x5F = true ∧ unassignedByte 0xA0 = true ∧ unassignedByte 0xFC = true ∧ unassignedByte 0xFE = true ∧
    unassignedByte 0xFD = false ∧ unassignedByte 0x60 = false ∧ unassignedByte 0x9F = false := by decide

theorem witness_StepRunsDecodedInstruction :
    (machine [0x60, 0x05] []).runState = .running ∧ (machine [0x60, 0x05] []).pc < (machine [0x60, 0x05] []).code.length ∧
    decode ((machine [0x60, 0x05] []).code.drop 0) = .ok (.push1 [0x05]) [] := by decide

theorem witness_FetchPastEndStops :
    [(0x60 : Byte), 0x05][1]? = some 0x05 ∧ [(0x60 : Byte), 0x05].length ≤ 2 ∧
    (machine [] []).runState = .running ∧ (machine [] []).code.length ≤ (machine [] []).pc ∧
    ({ machine [0x60] [0] with pc := 2 } : State).code.length ≤ 2 := by decide

theorem witness_StepFollowsTheStateMachine :
    ((machine [0x00] []).runState = .running ∧ (machine [0x00] []).code[0]? = some 0x00) ∧
    (machine [0xFD] []).code[(machine [0xFD] []).pc]? = some 0xFD ∧
    (machine [0x0B] []).code[(machine [0x0B] []).pc]? = some 0x0B ∧
    ({ machine [] [] with runState := .haltedNormal } : State).runState ≠ .running ∧
    step (machine [0x5B] []) = .next { machine [0x5B] [] with pc := 1 } :=
  ⟨by decide, by decide, by decide, by decide, rfl⟩

theorem witness_ResultDoesNotChange :
    execute 1 65536 [] [] 0 = some { outcome := .normal, output := none } ∧ 1 ≤ 5 := by decide

theorem witness_OutputExactlyWhenReverted :
    execute 3 65536 [0x60, 0x00, 0x60, 0x00, 0xFD] [] 0 = some { outcome := .reverted, output := some [] } ∧
    execute 1 65536 [0xFD] [] 0 = some { outcome := .faulted .stackUnderflow, output := none } ∧
    (runFor 1 (State.launch 65536 [0xFD] [] 0)).faultKind = some .stackUnderflow ∧
    execute 1 65536 [0x00] [] 0 = some { outcome := .normal, output := none } ∧
    (runFor 1 (State.launch 65536 [0x00] [] 0)).runState = .haltedNormal ∧
    execute 1 65536 [0x5B] [] 0 = none ∧ (runFor 1 (State.launch 65536 [0x5B] [] 0)).runState = .running := by decide

/-- The shapes `UnaryRule`, `BinaryRule`, `TernaryRule` and `PushesRule`: the operands are there, one is missing, the stack has
room, the stack is full. Every statement of an instruction's result that has only these hypotheses has this witness. -/
theorem witness_rule_shapes :
    (machine [] [9]).stack = 9 :: [] ∧ (machine [] []).stack.length < 1 ∧
    (machine [] [2, 1, 9]).stack = 2 :: 1 :: [9] ∧ (machine [] [2]).stack.length < 2 ∧
    (machine [] [8, 10, 10]).stack = 8 :: 10 :: 10 :: [] ∧ (machine [] [2, 1]).stack.length < 3 ∧
    (machine [] (List.replicate 1023 0)).stack.length < 1024 ∧ 1024 ≤ (machine [] (List.replicate 1024 0)).stack.length :=
  ⟨rfl, by decide, rfl, by decide, rfl, by decide, by rw [machine_zeros_length]; decide, (machine_zeros_length _ _).ge⟩

theorem witness_AddSubMulWrap : (machine [0x01] [ones, 1]).stack = ones :: 1 :: [] ∧ (machine [0x01] [1]).stack.length < 2 := by
  decide

theorem witness_DivModUnsigned :
    (machine [0x04] [0, 7]).stack = 0 :: 7 :: [] ∧ (0 : Word).toNat = 0 ∧ (3 : Word).toNat ≠ 0 ∧
    (machine [0x04] [3]).stack.length < 2 := by decide

theorem witness_UnsignedDivisionIdentity : (machine [0x04] [3, 10]).stack = 3 :: 10 :: [] ∧ (3 : Word) ≠ 0 := by decide

theorem witness_SdivSmodSigned :
    (machine [0x05] [ones, minWord]).stack = BitVec.allOnes 256 :: BitVec.intMin 256 :: [] ∧ (ones : Word) ≠ 0 ∧
    (machine [0x05] [0, 7]).stack = 0 :: 7 :: [] ∧ (machine [0x05] [7]).stack.length < 2 := by decide

theorem witness_SignedDivisionTable :
    (machine [0x05] [2, wrap (-7)]).stack = 2 :: wrap (-7) :: [] ∧ 0 < (7 : Word).toInt ∧ (wrap (-7)).toInt < 0 ∧
    0 < (2 : Word).toInt ∧ (wrap (-2)).toInt < 0 ∧ minWord.toInt.natAbs = 2 ^ 255 ∧ ones.toInt.natAbs = 1 ∧
    minWord.toInt < 0 ∧ ones.toInt < 0 ∧ (0 : Word).toInt = 0 := by decide

theorem witness_SignedDivisionIdentity :
    (machine [0x05] [ones, wrap (-7)]).stack = ones :: wrap (-7) :: [] ∧ ones ≠ 0 ∧
    ¬(wrap (-7) = BitVec.intMin 256 ∧ ones = BitVec.allOnes 256) := by decide

theorem witness_AddmodMulmodWide :
    (machine [0x08] [3, 1, ones]).stack = 3 :: 1 :: ones :: [] ∧ (machine [0x08] [0, 6, 5]).stack = 0 :: 6 :: 5 :: [] ∧
    (machine [0x08] [3, 1]).stack.length < 3 := by decide

theorem witness_ExpIsThePower :
    (machine [0x0A] [ones, 3]).stack = ones :: 3 :: [] ∧ (machine [0x0A] [3]).stack.length < 2 := by decide

theorem witness_UnsignedComparisons :
    (machine [0x10] [2, 1]).stack = 2 :: 1 :: [] ∧ (1 : Word).toNat < (2 : Word).toNat ∧ (5 : Word).toNat ≤ (5 : Word).toNat ∧
    (machine [0x10] [2]).stack.length < 2 := by decide

theorem witness_SignedComparisons :
    (machine [0x12] [0, ones]).stack = 0 :: ones :: [] ∧ ones.toInt < (0 : Word).toInt ∧ minWord.toInt ≤ minWord.toInt ∧
    (machine [0x12] [0]).stack.length < 2 := by decide

theorem witness_EqualityTests :
    (∀ k, k < 256 → (5 : Word).getLsbD k = (5 : Word).getLsbD k) ∧
    (255 < 256 ∧ (0 : Word).getLsbD 255 ≠ minWord.getLsbD 255) ∧ (0 : Word).toNat = 0 ∧ minWord.toNat ≠ 0 ∧
    (machine [0x14] [minWord, 0]).stack = minWord :: 0 :: [] ∧ (machine [0x15] []).stack.length < 1 :=
  ⟨fun _ _ => rfl, by decide, by decide, by decide, by decide, by decide⟩

theorem witness_BitwiseBitForBit :
    (machine [0x16] [0xFF00, 0xF0F0]).stack = 0xFF00 :: 0xF0F0 :: [] ∧ 0 < 256 ∧ 255 < 256 ∧
    (machine [0x16] [1]).stack.length < 2 := by decide

theorem witness_NotInvertsEveryBit :
    (machine [0x19] [0x0F]).stack = 0x0F :: [] ∧ 255 < 256 ∧ (machine [0x19] []).stack.length < 1 := by decide

theorem witness_ByteExtractsFromTheTop :
    (machine [0x1A] [0x1234, 31]).stack = 0x1234 :: 31 :: [] ∧ (31 : Word).toNat < 32 ∧ 32 ≤ (32 : Word).toNat ∧
    (machine [0x1A] [0x1234]).stack.length < 2 := by decide

theorem witness_LogicalShifts :
    (machine [0x1B] [255, 1]).stack = 255 :: 1 :: [] ∧ (255 : Word).toNat < 256 ∧ 256 ≤ (256 : Word).toNat ∧
    (machine [0x1B] [255]).stack.length < 2 := by decide

theorem witness_ArithmeticShift :
    (machine [0x1D] [256, minWord]).stack = 256 :: minWord :: [] ∧ 256 ≤ (256 : Word).toNat ∧ (255 : Word).toNat < 256 ∧
    minWord.getLsbD 255 = true ∧ (1 : Word).getLsbD 255 = false ∧ (machine [0x1D] [1]).stack.length < 2 := by decide

theorem witness_PopDropsTheTop :
    (machine [0x50] [2, 1]).stack = 2 :: [1] ∧ (machine [0x50] []).stack.length < 1 := by decide

theorem witness_PushPushesItsImmediate :
    (Instr.push1 [0xAB]).pushOperand = some (1, [0xAB]) ∧ [(0xAB : Byte)].length = 1 ∧
    (Instr.push32 (List.replicate 32 0xAB)).pushOperand = some (32, List.replicate 32 0xAB) ∧
    (machine [0x60, 0xAB] []).stack.length < 1024 ∧ 1024 ≤ (machine [0x60, 0xAB] (List.replicate 1024 0)).stack.length :=
  ⟨rfl, rfl, rfl, by decide, (machine_zeros_length _ _).ge⟩

theorem witness_PushReadsTheCode :
    (machine [0x61, 0xAB] []).runState = .running ∧ (machine [0x61, 0xAB] []).stack.length < 1024 ∧
    (machine [0x61, 0xAB] []).code[0]? = some (BitVec.ofNat 8 (0x5F + 2)) ∧ (machine [0x61, 0xAB] []).code.length < 0 + 1 + 2 := by
  decide

theorem witness_DupCopiesOneEntry :
    Instr.dup16.dupIndex = some 16 ∧ (machine [0x8F] sixteen).stack[16 - 1]? = some 0xA2 ∧
    (machine [0x8F] sixteen).stack.length < 1024 ∧ (machine [0x8F] (sixteen.take 15)).stack.length < 16 ∧
    16 ≤ (machine [0x8F] (List.replicate 1024 0)).stack.length ∧
    1024 ≤ (machine [0x8F] (List.replicate 1024 0)).stack.length :=
  ⟨rfl, by decide, by decide, by decide, by rw [machine_zeros_length]; decide, (machine_zeros_length _ _).ge⟩

theorem witness_SwapExchangesTwoEntries :
    Instr.swap16.swapIndex = some 16 ∧ (sixteen.drop 1).length = 16 - 1 ∧
    (machine [0x9F] (sixteen ++ [0xA1])).stack = 0xB1 :: sixteen.drop 1 ++ 0xA1 :: [] ∧
    (machine [0x9F] sixteen).stack.length < 16 + 1 ∧ Instr.swap1.swapIndex = some 1 ∧
    (machine [0x90] [2, 1]).stack = 2 :: [] ++ 1 :: [] := by decide

theorem witness_MloadReadsAWord :
    (machine [0x51] [0xFFE0]).stack = 0xFFE0 :: [] ∧ markFor 0xFFE0 32 ≤ (machine [0x51] [0xFFE0]).memCeiling ∧
    (machine [0x51] [0xFFE0]).memCeiling < markFor 0xFFE1 32 ∧ (machine [0x51] []).stack.length < 1 := by decide

theorem witness_MstoreWritesAWord :
    (machine [0x52] [0xFFE0, 1]).stack = 0xFFE0 :: 1 :: [] ∧ markFor 0xFFE0 32 ≤ (machine [0x52] [0xFFE0, 1]).memCeiling ∧
    (machine [0x52] [0xFFE1, 1]).memCeiling < markFor 0xFFE1 32 ∧ (machine [0x52] [1]).stack.length < 2 := by decide

theorem witness_Mstore8WritesAByte :
    (machine [0x53] [0xFFFF, 1]).stack = 0xFFFF :: 1 :: [] ∧ markFor 0xFFFF 1 ≤ (machine [0x53] [0xFFFF, 1]).memCeiling ∧
    (machine [0x53] [0x10000, 1]).memCeiling < markFor 0x10000 1 ∧ (machine [0x53] [1]).stack.length < 2 := by decide

theorem witness_LoadAfterStore :
    (machine [0x52, 0x51] [5, 1]).stack = 5 :: 1 :: [] ∧ markFor 5 32 ≤ (machine [0x52, 0x51] [5, 1]).memCeiling := by decide

theorem witness_JumpGoesToAMarkedDestination :
    (machine [0x56, 0x5B] [1]).stack = 1 :: [] ∧ (1 : Word).toNat ∈ analyse (machine [0x56, 0x5B] [1]).code ∧
    (0 : Word).toNat ∉ analyse (machine [0x56, 0x5B] [0]).code ∧ (machine [0x56, 0x5B] [2]).code.length ≤ (2 : Word).toNat ∧
    (machine [0x56] []).stack.length < 1 := by decide

theorem witness_JumpiTestsItsCondition :
    (machine [0x57, 0x5B] [1, minWord]).stack = 1 :: minWord :: [] ∧ minWord ≠ 0 ∧
    (1 : Word).toNat ∈ analyse (machine [0x57, 0x5B] [1, minWord]).code ∧
    (2 : Word).toNat ∉ analyse (machine [0x57, 0x5B] [2, 1]).code ∧
    (machine [0x57, 0x5B] [2, 0]).stack = 2 :: 0 :: [] ∧ (machine [0x57] [1]).stack.length < 2 := by decide

theorem witness_JumpLandsOnAMarker :
    ((machine [0x56, 0x5B] [1]).runState = .running ∧ (machine [0x56, 0x5B] [1]).stack = 1 :: [] ∧
      (machine [0x56, 0x5B] [1]).code[0]? = some 0x56 ∧
      step (machine [0x56, 0x5B] [1]) = .next { machine [0x56, 0x5B] [] with pc := 1 }) ∧
    ((machine [0x57, 0x5B] [1, minWord]).stack = 1 :: [minWord] ∧ (machine [0x57, 0x5B] [1, minWord]).code[0]? = some 0x57 ∧
      minWord ≠ 0 ∧ step (machine [0x57, 0x5B] [1, minWord]) = .next { machine [0x57, 0x5B] [] with pc := 1 }) :=
  ⟨⟨rfl, rfl, rfl, rfl⟩, rfl, rfl, by decide, rfl⟩

theorem witness_StepKeepsInstructionBoundary :
    (Boundary midRun.code midRun.pc ∧ ∃ t, step midRun = .next t) ∧
    Boundary [0x61, 0x5B, 0x5B] 0 ∧ [(0x61 : Byte), 0x5B, 0x5B][0]? = some 0x61 ∧ 0 < pushWidth 0x61 ∧ 1 < pushWidth 0x61 :=
  ⟨⟨midRun_boundary, _, midRun_step⟩, .entry, rfl, by decide, by decide⟩

theorem witness_StopHaltsNormally :
    ({ machine [0x60] [0] with pc := 2 } : State).runState = .running ∧
    ({ machine [0x60] [0] with pc := 2 } : State).code.length ≤ 2 := by decide

theorem witness_ContextValuesArePushed :
    (machine [0x34] (List.replicate 1023 0)).stack.length < 1024 ∧
    1024 ≤ (machine [0x34] (List.replicate 1024 0)).stack.length := ⟨by rw [machine_zeros_length]; decide, (machine_zeros_length _ _).ge⟩

theorem witness_CalldataloadReadsPaddedBytes :
    (machine [0x35] [ones]).stack = ones :: [] ∧ 31 < 32 ∧ (machine [0x35] []).stack.length < 1 := by decide

theorem witness_RevertReturnsItsRange :
    (machine [0xFD] [ones, 0]).stack = ones :: 0 :: [] ∧ (1 : Word) ≠ 0 ∧
    markFor 0xFFFF 1 ≤ (machine [0xFD] [0xFFFF, 1]).memCeiling ∧ (machine [0xFD] [0x10000, 1]).memCeiling < markFor 0x10000 1 ∧
    (machine [0xFD] [0x20]).stack.length < 2 := by decide

theorem witness_FaultsArePrecise :
    step (machine [0x01] [5]) = .next (faultState .stackUnderflow (machine [0x01] [5])) ∧
    (faultState .stackUnderflow (machine [0x01] [5])).runState = .faulted := ⟨rfl, rfl⟩

theorem witness_MemoryLimitExactly :
    accessOf .mload midRun.stack = some (0x20, 32) ∧ midRun.msize ≤ midRun.memCeiling ∧
    markFor 0 32 ≤ midRun.msize ∧ accessOf .revert [ones, 0] = some (2 ^ 256 - 1, 0) := by decide

theorem witness_InvalidJumpExactly :
    ¬Boundary [0x60, 0x5B] (1 : Word).toNat ∧ isValidTarget [0x60, 0x5B] 1 = false := by
  refine ⟨fun h => ?_, by decide⟩
  have key : ∀ n, Boundary [0x60, 0x5B] n → n = 0 ∨ 2 ≤ n := by
    intro n hn
    induction hn with
    | entry => exact .inl rfl
    | next i op here byte ih =>
      rcases ih with rfl | h2
      · have hop : op = 0x60 := by simpa using byte.symm
        subst hop
        exact .inr (by decide)
      · rw [List.getElem?_eq_none (by simpa using h2)] at byte
        cases byte
  have := key 1 h
  omega

theorem witness_InvalidOpcodeExactly :
    (machine [0x0C] []).runState = .running ∧ (machine [0x0C] []).code[0]? = some 0x0C ∧ unassignedByte 0x0C = true ∧
    (runFor 2 (State.launch 65536 [0x5B, 0x0C] [] 0)).faultKind = some .invalidOpcode := by decide

theorem witness_UnderflowExactly :
    (machine [0x09] [1, 2]).stack.length < Instr.mulmod.needs ∧ ¬(machine [0x09] [1, 2, 3]).stack.length < Instr.mulmod.needs := by
  decide

theorem witness_OverflowExactly :
    Instr.dup16.grows = true ∧ Instr.dup16.needs ≤ (machine [0x8F] (List.replicate 1024 0)).stack.length ∧
    1024 ≤ (machine [0x8F] (List.replicate 1024 0)).stack.length := ⟨rfl, by rw [machine_zeros_length]; decide, (machine_zeros_length _ _).ge⟩

end Sys2Proof.Tests
end

section
/-! State and reset (10_state.md): memory in its canonical form, what an instruction's effect leaves unchanged, and the invariant
of a run, at launch and through every step. -/

namespace Sys2Proof.Proofs

open Sys2Proof.Machine Sys2Proof.Safety Sys2Proof.Laws

/-! The canonical form of memory (10_state.md R14). -/

theorem read_head (a : Nat) (b : Byte) (m : Memory) : Memory.read ((a, b) :: m) a = b := if_pos rfl

/-- Below its listed addresses a memory reads zero. -/
theorem read_of_le {m : Memory} {a x : Nat} (hm : ∀ c ∈ m, a < c.1) (hx : x ≤ a) : m.read x = 0 :=
  read_of_not_mem fun c hc => by
    have := hm c hc
    omega

/-- The first entry of a canonical memory is at the lowest address that does not read zero. -/
theorem head_le_of_read_ne_zero {a x : Nat} {b : Byte} {m : Memory} (h : Memory.wf ((a, b) :: m) = true)
    (hx : Memory.read ((a, b) :: m) x ≠ 0) : a ≤ x := by
  obtain ⟨-, hm, -⟩ := wf_cons.mp h
  by_contra hlt
  refine hx ?_
  rw [read_cons, if_neg (by omega)]
  exact read_of_le hm (by omega)

/-- A canonical memory that reads zero everywhere lists nothing. -/
theorem eq_nil_of_read_eq_zero {m : Memory} (h : m.wf = true) (hz : ∀ x, m.read x = 0) : m = [] := by
  cases m with
  | nil => rfl
  | cons c m =>
    obtain ⟨a, b⟩ := c
    obtain ⟨hb, -, -⟩ := wf_cons.mp h
    exact absurd (read_head a b m ▸ hz a) hb

/-- Canonical memories that read alike start with the same entry, and what follows it reads alike as well. -/
theorem cons_read_inj {a c : Nat} {b d : Byte} {m n : Memory} (h₁ : Memory.wf ((a, b) :: m) = true)
    (h₂ : Memory.wf ((c, d) :: n) = true) (hread : ∀ x, Memory.read ((a, b) :: m) x = Memory.read ((c, d) :: n) x) :
    a = c ∧ b = d ∧ ∀ x, m.read x = n.read x := by
  obtain ⟨hb, hm, -⟩ := wf_cons.mp h₁
  obtain ⟨hd, hn, -⟩ := wf_cons.mp h₂
  have hac : a ≤ c := head_le_of_read_ne_zero h₁ (by rwa [hread, read_head])
  have hca : c ≤ a := head_le_of_read_ne_zero h₂ (by rwa [← hread, read_head])
  obtain rfl : a = c := Nat.le_antisymm hac hca
  refine ⟨rfl, by rw [← read_head a b m, hread, read_head], fun x => ?_⟩
  by_cases hx : x = a
  · rw [read_of_le hm hx.le, read_of_le hn hx.le]
  · simpa [read_cons, hx] using hread x

/-- Settles O8, by induction on the first memory: its first entry is the other one's. -/
theorem memoryFormIsCanonical : Obligations.MemoryFormIsCanonical := by
  unfold Obligations.MemoryFormIsCanonical
  intro m₁
  induction m₁ with
  | nil => exact fun m₂ _ h₂ hread => (eq_nil_of_read_eq_zero h₂ fun x => (hread x).symm).symm
  | cons e m ih =>
    obtain ⟨a, b⟩ := e
    intro m₂ h₁ h₂ hread
    cases m₂ with
    | nil => exact eq_nil_of_read_eq_zero h₁ hread
    | cons f n =>
      obtain ⟨c, d⟩ := f
      obtain ⟨rfl, rfl, htail⟩ := cons_read_inj h₁ h₂ hread
      obtain ⟨-, -, hm⟩ := wf_cons.mp h₁
      obtain ⟨-, -, hn⟩ := wf_cons.mp h₂
      rw [ih n hm hn htail]

/-! Which instruction runs, from the byte in the code. -/

/-- A fetched byte other than the opcode byte of STOP stands in the code. -/
theorem getElem?_of_fetchByte {code : List Byte} {pc : Nat} {op : Byte} (h : op = fetchByte code pc) (hop : op ≠ 0x00) :
    code[pc]? = some op := by
  cases hb : code[pc]? with
  | none => exact absurd (h.trans (fetchByte_past (List.getElem?_eq_none_iff.mp hb))) hop
  | some b => rw [h, fetchByte_of_some hb]

/-- STOP alone has the opcode byte `0x00`. -/
theorem eq_stop_of_opcode {i : Instr} (h : i.opcode = 0x00) : i = .stop := by
  cases i
  case stop => rfl
  all_goals simp [Instr.opcode] at h

/-- An instruction other than STOP runs only where its opcode byte stands in the code. -/
theorem getElem?_opcode {i : Instr} {code : List Byte} {pc : Nat} (hop : i.opcode = fetchByte code pc) (hi : i ≠ .stop) :
    code[pc]? = some i.opcode :=
  getElem?_of_fetchByte hop (mt eq_stop_of_opcode hi)

/-- Within the code, STOP runs only where the byte is `0x00`. -/
theorem getElem?_stop {code : List Byte} {pc : Nat} (hop : Instr.stop.opcode = fetchByte code pc) (hlt : pc < code.length) :
    code[pc]? = some 0x00 := by
  rw [List.getElem?_eq_getElem hlt, ← fetchByte_of_some (List.getElem?_eq_getElem hlt), ← hop]
  rfl

/-! What an effect leaves unchanged. -/

/-- No effect changes a launch input or the ceiling. -/
theorem effect_launchInputs {i : Instr} {s t : State} (h : Effect i s t) :
    t.code = s.code ∧ t.callData = s.callData ∧ t.callValue = s.callValue ∧ t.memCeiling = s.memCeiling := by
  cases h <;> exact ⟨rfl, rfl, rfl, rfl⟩

/-- Memory changes only by MSTORE and MSTORE8. -/
theorem effect_mem {i : Instr} {s t : State} (h : Effect i s t) (h1 : i ≠ .mstore) (h2 : i ≠ .mstore8) : t.mem = s.mem := by
  cases h with
  | store _ _ hi => exact absurd hi (by simp [h1, h2])
  | _ => rfl

/-- The high-water mark changes only by MLOAD, MSTORE, MSTORE8 and REVERT. -/
theorem effect_msize {i : Instr} {s t : State} (h : Effect i s t) (h1 : i ≠ .mload) (h2 : i ≠ .mstore) (h3 : i ≠ .mstore8)
    (h4 : i ≠ .revert) : t.msize = s.msize := by
  cases h with
  | load _ _ hi => exact absurd hi h1
  | store _ _ hi => exact absurd hi (by simp [h2, h3])
  | revert _ _ hi => exact absurd hi h4
  | _ => rfl

/-- The high-water mark never falls. -/
theorem effect_msize_le {i : Instr} {s t : State} (h : Effect i s t) : s.msize ≤ t.msize := by
  cases h with
  | load => exact Nat.le_max_left ..
  | store => exact Nat.le_max_left ..
  | revert _ _ _ _ _ hge => exact hge
  | _ => exact Nat.le_refl _

/-- The output changes only by STOP and REVERT. -/
theorem effect_output {i : Instr} {s t : State} (h : Effect i s t) (h1 : i ≠ .stop) (h2 : i ≠ .revert) :
    t.output = s.output := by
  cases h with
  | stop hi => exact absurd hi h1
  | revert _ _ hi => exact absurd hi h2
  | _ => rfl

/-- Settles O6: an unassigned byte is a fault, and no effect of an instruction changes these fields. -/
theorem launchInputsNeverChange : Obligations.LaunchInputsNeverChange := by
  unfold Obligations.LaunchInputsNeverChange
  intro s t h
  obtain ⟨-, ⟨-, rfl⟩ | ⟨i, -, -, heff⟩⟩ := step_cases h
  · exact ⟨rfl, rfl, rfl, rfl⟩
  · exact effect_launchInputs heff

/-- Settles O7: each clause excludes by its byte the instructions whose effect changes that field. -/
theorem onlyTheNamedInstructionsWrite : Obligations.OnlyTheNamedInstructionsWrite := by
  unfold Obligations.OnlyTheNamedInstructionsWrite
  intro s t h
  obtain ⟨-, ⟨-, rfl⟩ | ⟨i, hop, -, heff⟩⟩ := step_cases h
  · exact ⟨fun _ _ => rfl, fun _ _ _ _ => rfl, Nat.le_refl _, fun _ _ _ => rfl⟩
  · have isNot : ∀ j : Instr, j ≠ .stop → s.code[s.pc]? ≠ some j.opcode → i ≠ j := by
      rintro j hj hbyte rfl
      exact hbyte (getElem?_opcode hop hj)
    have notStop : s.pc < s.code.length → s.code[s.pc]? ≠ some 0x00 → i ≠ .stop := by
      rintro hlt hbyte rfl
      exact hbyte (getElem?_stop hop hlt)
    have mload := isNot .mload (by simp)
    have mstore := isNot .mstore (by simp)
    have mstore8 := isNot .mstore8 (by simp)
    have revert := isNot .revert (by simp)
    exact ⟨fun h52 h53 => effect_mem heff (mstore h52) (mstore8 h53),
      fun h51 h52 h53 hFD => effect_msize heff (mload h51) (mstore h52) (mstore8 h53) (revert hFD),
      effect_msize_le heff, fun hlt h00 hFD => effect_output heff (notStop hlt h00) (revert hFD)⟩

/-! Launch and reset (10_state.md R28). -/

theorem launch_runInv (ceiling : Nat) (code callData : List Byte) (callValue : Word) :
    RunInv (State.launch ceiling code callData callValue) where
  stack_le := by simp
  mem_wf := rfl
  msize_aligned := rfl
  msize_le := Nat.zero_le _
  mem_above := fun _ _ => rfl
  fault_iff := by simp
  output_iff := by simp
  boundary := .entry
  pc_le := Nat.zero_le _

/-- Settles O1, field by field; membership in the destination set is what the jump's test decides. -/
theorem launchStateValues : Obligations.LaunchStateValues := by
  unfold Obligations.LaunchStateValues
  intro ceiling code callData callValue
  exact ⟨rfl, rfl, rfl, fun _ => rfl, rfl, rfl, rfl, rfl, rfl, rfl, rfl, fun _ => isValidTarget_iff⟩

/-- Settles O2. -/
theorem launchMeetsInvariant : Obligations.LaunchMeetsInvariant := by
  unfold Obligations.LaunchMeetsInvariant
  exact launch_runInv

/-- Settles O3: `State.reset` is a launch. -/
theorem resetMeetsInvariant : Obligations.ResetMeetsInvariant := by
  unfold Obligations.ResetMeetsInvariant
  exact launch_runInv resetMemCeiling [] [] 0

/-! Instruction boundaries (30_encoding.md R58; 44_jump.md R131). -/

theorem pushWidth_le (op : Byte) : pushWidth op ≤ 32 := by
  unfold pushWidth
  split <;> omega

/-- Where an instruction other than STOP runs at a boundary, the offset past it is a boundary, at most 32 past the end of the
code. -/
theorem boundary_next {i : Instr} {code : List Byte} {pc n : Nat} (hb : Boundary code pc)
    (hop : i.opcode = fetchByte code pc) (hi : i ≠ .stop) (hn : immLen i.opcode = n) :
    Boundary code (pc + 1 + n) ∧ pc + 1 + n ≤ code.length + 32 := by
  have hbyte := getElem?_opcode hop hi
  have hlt : pc < code.length := (List.getElem?_eq_some_iff.mp hbyte).1
  have hle := pushWidth_le i.opcode
  rw [immLen_eq_pushWidth] at hn
  subst hn
  exact ⟨.next pc _ hb hbyte, by omega⟩

/-- The scan records boundaries only, from any cursor `i` whose next boundary is `i + skip`. -/
theorem boundary_of_mem_analyseFrom {code : List Byte} {i skip t : Nat} {rest : List Byte} (hrest : code.drop i = rest)
    (hb : Boundary code (i + skip)) (ht : t ∈ analyseFrom i skip rest) : Boundary code t := by
  induction rest generalizing i skip with
  | nil => simp [analyseFrom] at ht
  | cons op rest ih =>
    have hdrop : code.drop (i + 1) = rest := by rw [← List.drop_drop, hrest, List.drop_one, List.tail_cons]
    cases skip with
    | succ skip => exact ih hdrop (by rwa [Nat.add_right_comm]) ht
    | zero =>
      have hbyte : code[i]? = some op := by rw [← List.head?_drop, hrest, List.head?_cons]
      have hnext : Boundary code (i + 1 + immLen op) := immLen_eq_pushWidth op ▸ .next i op hb hbyte
      unfold analyseFrom at ht
      split at ht
      · exact ih hdrop hnext ht
      · next hpos =>
        have hnext : Boundary code (i + 1 + 0) := by rwa [Nat.eq_zero_of_not_pos hpos] at hnext
        split at ht
        · rcases List.mem_cons.mp ht with rfl | ht
          · exact hb
          · exact ih hdrop hnext ht
        · exact ih hdrop hnext ht

/-- Every jump destination is a boundary. -/
theorem boundary_of_mem_analyse {code : List Byte} {t : Nat} (h : t ∈ analyse code) : Boundary code t :=
  boundary_of_mem_analyseFrom (i := 0) (skip := 0) rfl .entry h

theorem lt_length_of_mem_analyse {code : List Byte} {t : Nat} (h : t ∈ analyse code) : t < code.length := by
  simpa using analyseFrom_lt h

/-! The high-water mark (10_state.md R15, R16). -/

theorem add_le_markFor (addr n : Nat) : addr + n ≤ markFor addr n := by
  unfold markFor
  omega

theorem max_markFor_aligned {m : Nat} (hm : m % 32 = 0) (addr n : Nat) : max m (markFor addr n) % 32 = 0 := by
  unfold markFor
  omega

/-! The invariant through a step. -/

theorem faultKind_of_running {s : State} (h : RunInv s) (hr : s.runState = .running) : s.faultKind = none := by
  by_contra hk
  simpa [hr] using h.fault_iff.mpr hk

theorem output_of_running {s : State} (h : RunInv s) (hr : s.runState = .running) : s.output = none := by
  by_contra ho
  simpa [hr] using h.output_iff.mpr ho

theorem runInv_faultState {s : State} (h : RunInv s) (hr : s.runState = .running) (k : FaultKind) :
    RunInv (faultState k s) :=
  { h with
    fault_iff := by simp
    output_iff := by simp [output_of_running h hr] }

/-- A store of bytes under the raised high-water mark keeps what the invariant says of memory. -/
theorem read_writeBytes_above {m : Memory} {msize : Nat} (hm : ∀ a, msize ≤ a → m.read a = 0) {addr a : Nat}
    {bytes : List Byte} (ha : max msize (markFor addr bytes.length) ≤ a) : (m.writeBytes addr bytes).read a = 0 := by
  have := add_le_markFor addr bytes.length
  rw [read_writeBytes_outside m (.inr (by omega)), hm a (by omega)]

/-- Every effect keeps the invariant. -/
theorem runInv_effect {i : Instr} {s t : State} (h : RunInv s) (hr : s.runState = .running)
    (hop : i.opcode = fetchByte s.code s.pc) (heff : Effect i s t) : RunInv t := by
  have past := fun n => boundary_next (n := n) h.boundary hop
  cases heff with
  | fault k => exact runInv_faultState h hr k
  | advance stack hlen hstop _ =>
    obtain ⟨hb, hpc⟩ := past _ hstop rfl
    exact { h with stack_le := hlen.elim (·.trans h.stack_le) id, boundary := hb, pc_le := hpc }
  | load stack hlen hi addr hle =>
    obtain ⟨hb, hpc⟩ := past 0 (by simp [hi]) (by rw [hi]; rfl)
    exact { h with
      stack_le := hlen.trans h.stack_le
      msize_aligned := max_markFor_aligned h.msize_aligned addr 32
      msize_le := Nat.max_le.mpr ⟨h.msize_le, hle⟩
      mem_above := fun a ha => h.mem_above a (le_of_max_le_left ha)
      boundary := hb
      pc_le := hpc }
  | store stack hlen hi addr bytes _ hle =>
    obtain ⟨hb, hpc⟩ := past 0 (by rcases hi with rfl | rfl <;> simp) (by rcases hi with rfl | rfl <;> rfl)
    exact { h with
      stack_le := hlen.trans h.stack_le
      mem_wf := writeBytes_wf addr bytes h.mem_wf
      msize_aligned := max_markFor_aligned h.msize_aligned addr bytes.length
      msize_le := Nat.max_le.mpr ⟨h.msize_le, hle⟩
      mem_above := fun a ha => read_writeBytes_above h.mem_above ha
      boundary := hb
      pc_le := hpc }
  | jump stack hlen _ dest hdest =>
    exact { h with
      stack_le := hlen.trans h.stack_le
      boundary := boundary_of_mem_analyse hdest
      pc_le := (lt_length_of_mem_analyse hdest).le.trans (Nat.le_add_right ..) }
  | stop =>
    exact { h with
      fault_iff := by simp [faultKind_of_running h hr]
      output_iff := by simp }
  | revert stack hlen _ out msize hge hle =>
    exact { h with
      stack_le := hlen.trans h.stack_le
      msize_aligned := hle.elim (· ▸ h.msize_aligned) (·.1)
      msize_le := hle.elim (· ▸ h.msize_le) (·.2)
      mem_above := fun a ha => h.mem_above a (hge.trans ha)
      fault_iff := by simp [faultKind_of_running h hr]
      output_iff := by simp }

/-- Settles O4: a step runs an instruction, whose effect keeps the invariant, or takes InvalidOpcode. -/
theorem stepKeepsInvariant : Obligations.StepKeepsInvariant := by
  unfold Obligations.StepKeepsInvariant
  intro s t h hstep
  obtain ⟨hr, ⟨-, rfl⟩ | ⟨i, hop, -, heff⟩⟩ := step_cases hstep
  · exact runInv_faultState h hr .invalidOpcode
  · exact runInv_effect h hr hop heff

/-! Runs. -/

/-- What every step keeps holds after any number of steps. -/
theorem runFor_induction {P : State → Prop} (hstep : ∀ s t, P s → step s = .next t → P t) (fuel : Nat) {s : State}
    (h : P s) : P (runFor fuel s) := by
  induction fuel generalizing s with
  | zero => exact h
  | succ fuel ih =>
    unfold runFor
    split
    · next t ht => exact ih (hstep s t h ht)
    · exact h
    · exact h

/-- Settles O5: the invariant holds at launch and every step keeps it. -/
theorem runsMeetInvariant : Obligations.RunsMeetInvariant := by
  unfold Obligations.RunsMeetInvariant
  intro fuel ceiling code callData callValue
  exact runFor_induction stepKeepsInvariant fuel (launch_runInv ceiling code callData callValue)

end Sys2Proof.Proofs
end

section
/-! Data memory (20_memory.md): a store followed by a load of the same range. -/

namespace Sys2Proof.Proofs

open Sys2Proof.Machine Sys2Proof.Safety Sys2Proof.Laws

/-- Bytes written from an address on are read back from there, whatever was there before. -/
theorem readBytes_writeBytes_same (m : Memory) (x : Nat) (bytes : List Byte) :
    (m.writeBytes x bytes).readBytes x bytes.length = bytes := by
  refine List.ext_getElem (readBytes_length ..) fun k _ hk => ?_
  have hread : (m.writeBytes x bytes).read (x + k) = bytes[k] := by
    rw [read_writeBytes, if_pos (by omega), Nat.add_sub_cancel_left, List.getElem?_eq_getElem hk, Option.getD_some]
  rw [← hread, List.getElem_eq_iff, getElem?_readBytes _ hk]

/-- `bytesBE n v` has the digit sum of `v` cut to `n` bytes. -/
theorem bigEndian_bytesBE (n v : Nat) : bigEndian (bytesBE n v) = v % 256 ^ n := by
  induction n with
  | zero => rw [Nat.pow_zero, Nat.mod_one]; rfl
  | succ n ih =>
    rw [bytesBE, bigEndian, ih, bytesBE_length, BitVec.toNat_ofNat, Nat.mod_pow_succ (b := 256), Nat.mul_comm, Nat.add_comm]

/-- The 32-byte representation of a Word stands for that Word. -/
theorem wordOfBytes_bytesBE (w : Word) : wordOfBytes (bytesBE 32 w.toNat) = w := by
  have hlt : w.toNat < 256 ^ 32 := w.isLt
  rw [wordOfBytes, be_eq_bigEndian, bigEndian_bytesBE, Nat.mod_eq_of_lt hlt, wrapNat, BitVec.ofNat_toNat, BitVec.setWidth_eq]

/-- The Word read from where a Word was just written is that Word. -/
theorem readWord_writeWord_same (m : Memory) (x : Nat) (w : Word) :
    wordOfBytes ((m.writeBytes x (bytesBE 32 w.toNat)).readBytes x 32) = w := by
  have hbytes := readBytes_writeBytes_same m x (bytesBE 32 w.toNat)
  rw [bytesBE_length] at hbytes
  rw [hbytes, wordOfBytes_bytesBE]

/-- Settles O42: the store has raised the high-water mark over the range the load reads, and the load reads the bytes stored. -/
theorem loadAfterStore : Obligations.LoadAfterStore := by
  unfold Obligations.LoadAfterStore
  intro s offset w below hs hle
  refine ⟨_, execMstore_ok hs hle, ?_⟩
  refine Eq.trans (execMload_ok (offset := offset) (below := below) rfl hle) ?_
  simp only [readWord_writeWord_same, max_assoc, max_self]

end Sys2Proof.Proofs
end

section
/-! Encoding (30_encoding.md): the decoder and the encoder are inverse, which bytes the decoder rejects, the bytes a PUSH reads,
and the instruction boundaries of the code. -/

namespace Sys2Proof.Proofs

open Sys2Proof.Machine Sys2Proof.Safety Sys2Proof.Laws

/-! The encoder's bytes, decoded (R50 to R52). -/

/-- The immediate taken from its own bytes, whatever follows them. -/
theorem immediateBytes_append (imm rest : List Byte) : immediateBytes imm.length (imm ++ rest) = imm := by
  rw [immediateBytes_of_le (by simp), List.take_left]

/-- Settles O9: the table's entry for `i` is a plain one, or that of PUSHn, which takes back exactly the immediate written. -/
theorem decodeOfEncode : Obligations.DecodeOfEncode := by
  unfold Obligations.DecodeOfEncode
  intro i rest hwf
  rw [encode, List.cons_append]
  cases hp : i.pushOperand with
  | none =>
    obtain ⟨htable, himm, -⟩ := table_of_plain hp
    rw [decode_cons_of_table htable, himm]
    rfl
  | some operand =>
    obtain ⟨n, imm⟩ := operand
    obtain ⟨build, htable, hbuild, himm, hlen, -⟩ := table_of_pushOperand hp
    obtain rfl : imm.length = n := by rwa [hlen, beq_iff_eq] at hwf
    rw [decode_cons_of_table htable, himm]
    simp only [immediateBytes_append, hbuild, List.drop_left]

/-! The decoder's answers (R53, R54, R56). -/

/-- The inversion of an accepting decode: the byte has a table entry, which fixes the instruction and the bytes left over. -/
theorem decode_ok_cases {op : Byte} {bytes rest : List Byte} {i : Instr} (h : decode (op :: bytes) = .ok i rest) :
    ∃ d, table op = some d ∧ d.immLen = pushWidth op ∧ i = d.build (immediateBytes (pushWidth op) bytes) ∧
      rest = bytes.drop (pushWidth op) := by
  cases ht : table op with
  | none => rw [decode_cons_of_none ht] at h; cases h
  | some d =>
    have hlen : d.immLen = pushWidth op := by rw [← immLen_of_table ht, immLen_eq_pushWidth]
    rw [decode_cons_of_table ht, hlen] at h
    cases h
    exact ⟨d, rfl, hlen, rfl, rfl⟩

/-- What an entry builds from as many bytes as it asks for is well-formed and has these bytes as its immediate. -/
theorem build_of_length {op : Byte} {d : Descriptor} (h : table op = some d) {imm : List Byte} (hlen : imm.length = d.immLen) :
    (d.build imm).wellFormed = true ∧ (d.build imm).immediate = imm := by
  obtain ⟨-, ⟨hzero, himm, hwf⟩ | ⟨-, himm, hwf⟩⟩ := build_of_table h imm
  · exact ⟨hwf, by rw [himm, List.eq_nil_of_length_eq_zero (hlen.trans hzero)]⟩
  · exact ⟨by rw [hwf, hlen, beq_self_eq_true], himm⟩

/-- Settles O10: the instruction is built by the table's entry from the bytes after the opcode. -/
theorem encodeOfDecode : Obligations.EncodeOfDecode := by
  unfold Obligations.EncodeOfDecode
  intro op bytes rest i h
  have hop := opcode_of_decode h
  obtain ⟨d, ht, hlen, hi, hrest⟩ := decode_ok_cases h
  obtain ⟨hwf, himm⟩ := build_of_length ht ((immediateBytes_length (pushWidth op) bytes).trans hlen.symm)
  rw [← hi] at hwf himm
  refine ⟨hwf, hop, by rw [himm, immediateBytes_eq_map], hrest, fun hle => ?_⟩
  rw [encode, hop, himm, immediateBytes_of_le hle, hrest, List.cons_append, List.take_append_drop]

/-- The decoder rejects a byte exactly where the table has no entry for it. -/
theorem decode_unassigned_iff (op : Byte) (bytes : List Byte) :
    decode (op :: bytes) = .rejected (.unassigned op) ↔ table op = none := by
  cases ht : table op with
  | none => simp [decode_cons_of_none ht]
  | some d => simp [decode_cons_of_table ht]

/-- Settles O11: the bytes without a table entry are those of the listed ranges. -/
theorem unassignedBytesAreRejected : Obligations.UnassignedBytesAreRejected := by
  unfold Obligations.UnassignedBytesAreRejected
  refine ⟨fun op bytes => (decode_unassigned_iff op bytes).trans (table_none_iff op), fun op h => ⟨?_, ?_⟩, rfl⟩
  · rw [immLen, (table_none_iff op).mpr h]
  · rintro rfl
    exact absurd h (by decide)

/-- Settles O12, word by word. -/
theorem sampleWordsDecode : Obligations.SampleWordsDecode := by
  unfold Obligations.SampleWordsDecode
  decide

/-! A PUSH in the code (R53, R54; 47_execution_loop.md R161, R166). -/

/-- An entry with immediate bytes is that of a PUSH, and what it builds carries them as its operand. -/
theorem pushOperand_build {op : Byte} {d : Descriptor} (h : table op = some d) (hpos : 0 < d.immLen) (imm : List Byte) :
    (d.build imm).pushOperand = some (d.immLen, imm) := by
  obtain ⟨hop, ⟨hzero, -⟩ | ⟨-, himm, -⟩⟩ := build_of_table h imm
  · omega
  · cases hp : (d.build imm).pushOperand with
    | none =>
      obtain ⟨htable, -⟩ := table_of_plain hp
      rw [hop, h] at htable
      have hzero : d.immLen = 0 := congrArg Descriptor.immLen (Option.some.inj htable)
      omega
    | some operand =>
      obtain ⟨n, imm'⟩ := operand
      obtain ⟨build, htable, -, himm', -⟩ := table_of_pushOperand hp
      rw [hop, h] at htable
      cases htable
      rw [← himm, himm']

theorem pushWidth_pushOpcode {n : Nat} (h1 : 1 ≤ n) (h32 : n ≤ 32) : pushWidth (BitVec.ofNat 8 (0x5F + n)) = n := by
  have hnum : (BitVec.ofNat 8 (0x5F + n)).toNat = 0x5F + n := by
    rw [BitVec.toNat_ofNat, Nat.mod_eq_of_lt (by omega)]
  rw [pushWidth, hnum, if_pos (by omega), Nat.add_sub_cancel_left]

/-- Every byte with an immediate has a table entry, of that immediate's length. -/
theorem table_of_pushWidth_pos {op : Byte} (h : 0 < pushWidth op) : ∃ d, table op = some d ∧ d.immLen = pushWidth op := by
  cases ht : table op with
  | none =>
    rw [← immLen_eq_pushWidth, immLen, ht] at h
    exact absurd h (Nat.lt_irrefl 0)
  | some d => exact ⟨d, rfl, by rw [← immLen_of_table ht, immLen_eq_pushWidth]⟩

/-- Where the byte at `pc` has an immediate, the step pushes the bytes after it. -/
theorem step_push {s : State} {op : Byte} (hr : s.runState = .running) (hbyte : s.code[s.pc]? = some op)
    (hpos : 0 < pushWidth op) :
    step s = pushOp (pushWidth op) (wordOfBytes (immediateBytes (pushWidth op) (s.code.drop (s.pc + 1)))) s := by
  obtain ⟨d, ht, hlen⟩ := table_of_pushWidth_pos hpos
  rw [step_running hr, fetchBytes, fetchByte_of_some hbyte, decode_cons_of_table ht, ← hlen]
  exact (exec_of_pushOperand (pushOperand_build ht (hlen ▸ hpos) _) s).1

/-- A fetch at or past the end of the code halts normally. -/
theorem step_past_end {s : State} (hr : s.runState = .running) (h : s.code.length ≤ s.pc) :
    step s = .next (halt .normal none s) := by
  have ht : table 0x00 = plainEntry .stop := rfl
  rw [step_running hr, fetchBytes, fetchByte_past h, decode_cons_of_table ht]
  rfl

/-- Settles O36: the byte's table entry is that of PUSHn, and past the end of the code the fetch is of STOP. -/
theorem pushReadsTheCode : Obligations.PushReadsTheCode := by
  unfold Obligations.PushReadsTheCode
  intro s n h1 h32 hr hroom hbyte
  have hwidth := pushWidth_pushOpcode h1 h32
  have hstep := step_push hr hbyte (by omega)
  rw [hwidth, pushOp_room hroom, immediateBytes_eq_map, wordOfBytes, be_eq_bigEndian] at hstep
  simp only [List.getElem?_drop] at hstep
  exact ⟨_, hstep, rfl, fun hend => ⟨_, step_past_end hr hend.le, rfl⟩⟩

/-! Instruction boundaries (R58; 44_jump.md R136 (b)). -/

/-- From a boundary, every effect leaves `pc` at a boundary: where it was, past the instruction, or at a jump destination. -/
theorem boundary_effect {i : Instr} {s t : State} (hb : Boundary s.code s.pc) (hop : i.opcode = fetchByte s.code s.pc)
    (heff : Effect i s t) : Boundary t.code t.pc := by
  have past : ∀ n, i ≠ .stop → immLen i.opcode = n → Boundary s.code (s.pc + 1 + n) :=
    fun n hi hn => (boundary_next hb hop hi hn).1
  cases heff with
  | fault => exact hb
  | advance _ _ hstop => exact past _ hstop rfl
  | load _ _ hi => exact past 0 (by simp [hi]) (by rw [hi]; rfl)
  | store _ _ hi => exact past 0 (by rcases hi with rfl | rfl <;> simp) (by rcases hi with rfl | rfl <;> rfl)
  | jump _ _ _ _ hdest => exact boundary_of_mem_analyse hdest
  | stop => exact hb
  | revert => exact hb

/-- Boundaries are disjoint: a boundary after the instruction at `i` is not before its end. By induction on the later boundary,
whose predecessor `j` is before, at or after `i`. -/
theorem boundary_past_instr {code : List Byte} {i k : Nat} {op : Byte} (hi : Boundary code i) (hbyte : code[i]? = some op)
    (hk : Boundary code k) (hlt : i < k) : i + 1 + pushWidth op ≤ k := by
  induction k using Nat.strong_induction_on generalizing i op with
  | _ k ih =>
    cases hk with
    | entry => omega
    | next j op' hj hbyte' =>
      rcases Nat.lt_trichotomy i j with hij | rfl | hji
      · have := ih j (by omega) hi hbyte hj hij
        omega
      · obtain rfl : op = op' := Option.some.inj (hbyte.symm.trans hbyte')
        exact Nat.le_refl _
      · have := ih i hlt hj hbyte' hi hji
        omega

/-- Settles O48: every effect leaves `pc` at a boundary, and an offset inside an immediate is before the instruction's end. -/
theorem stepKeepsInstructionBoundary : Obligations.StepKeepsInstructionBoundary := by
  unfold Obligations.StepKeepsInstructionBoundary
  refine ⟨fun s t hb hstep => ⟨(launchInputsNeverChange s t hstep).1, ?_⟩, fun code i k op hi hbyte hk hinside => ?_⟩
  · obtain ⟨-, ⟨-, rfl⟩ | ⟨i, hop, -, heff⟩⟩ := step_cases hstep
    · exact hb
    · exact boundary_effect hb hop heff
  · have := boundary_past_instr hi hbyte hinside (by omega)
    omega

end Sys2Proof.Proofs
end

section
/-! Word arithmetic (40_word_arithmetic.md): the operand shapes of R70, what the ALU's functions of R71 to R80 answer as integers,
and the division identities of R81 and R82. -/

namespace Sys2Proof.Proofs

open Sys2Proof.Machine Sys2Proof.Safety Sys2Proof.Laws

/-! The operand shapes (R70). -/

/-- Every instruction without an immediate is encoded by its opcode byte alone. -/
theorem encodedBy_opcode {i : Instr} (h : i.pushOperand = none) : EncodedBy i.opcode i := by
  obtain ⟨htable, himm, -⟩ := table_of_plain h
  exact ⟨by rw [encode, himm], fun rest => decode_cons_of_table htable rest⟩

/-- An instruction that runs `binaryOp` meets the binary rule of every relation its function meets. -/
theorem binaryRule_of_binaryOp {i : Instr} {op : Word → Word → Word} {result : Word → Word → Word → Prop}
    (hi : i.pushOperand = none) (hexec : exec i = binaryOp op) (hop : ∀ a b, result a b (op a b)) :
    BinaryRule i.opcode i result := by
  refine ⟨encodedBy_opcode hi, fun s a b below hs => ⟨op a b, hop a b, ?_⟩, fun s hs => ?_⟩
  · rw [hexec, binaryOp_cons hs]
  · rw [Raises, hexec, binaryOp_short hs]

/-- An instruction that runs `ternaryOp` meets the ternary rule of every relation its function meets. -/
theorem ternaryRule_of_ternaryOp {i : Instr} {op : Word → Word → Word → Word} {result : Word → Word → Word → Word → Prop}
    (hi : i.pushOperand = none) (hexec : exec i = ternaryOp op) (hop : ∀ x y m, result x y m (op x y m)) :
    TernaryRule i.opcode i result := by
  refine ⟨encodedBy_opcode hi, fun s x y m below hs => ⟨op x y m, hop x y m, ?_⟩, fun s hs => ?_⟩
  · rw [hexec, ternaryOp_cons hs]
  · rw [Raises, hexec, ternaryOp_short hs]

/-! Sum, difference and product (R71 to R73). -/

/-- Settles O18: the three functions narrow the exact result. -/
theorem addSubMulWrap : Obligations.AddSubMulWrap := by
  unfold Obligations.AddSubMulWrap
  exact ⟨binaryRule_of_binaryOp (i := .add) (op := addWord) rfl rfl fun _ _ => rfl,
    binaryRule_of_binaryOp (i := .sub) (op := subWord) rfl rfl fun _ _ => rfl,
    binaryRule_of_binaryOp (i := .mul) (op := mulWord) rfl rfl fun _ _ => rfl⟩

/-! Unsigned division and the modular operations (R74, R75, R78, R79, R81). -/

/-- The guarded form of DIV, MOD, ADDMOD and MULMOD: 0 for divisor 0, and otherwise a number no larger than some Word's, which is
narrowed unchanged. -/
theorem toNat_guarded_wrapNat {b w : Word} {n : Nat} (h : b.toNat ≠ 0 → n ≤ w.toNat) :
    (if b.toNat = 0 then 0 else wrapNat n).toNat = if b.toNat = 0 then 0 else n := by
  split
  · rfl
  · next hb => exact toNat_wrapNat_of_le (h hb)

theorem toNat_divWord (a b : Word) : (divWord a b).toNat = if b.toNat = 0 then 0 else a.toNat / b.toNat :=
  toNat_guarded_wrapNat fun _ => Nat.div_le_self a.toNat b.toNat

theorem toNat_modWord (a b : Word) : (modWord a b).toNat = if b.toNat = 0 then 0 else a.toNat % b.toNat :=
  toNat_guarded_wrapNat fun _ => Nat.mod_le a.toNat b.toNat

theorem toNat_addmodWord (x y m : Word) :
    (addmodWord x y m).toNat = if m.toNat = 0 then 0 else (x.toNat + y.toNat) % m.toNat :=
  toNat_guarded_wrapNat fun hm => (Nat.mod_lt _ (Nat.pos_of_ne_zero hm)).le

theorem toNat_mulmodWord (x y m : Word) :
    (mulmodWord x y m).toNat = if m.toNat = 0 then 0 else x.toNat * y.toNat % m.toNat :=
  toNat_guarded_wrapNat fun hm => (Nat.mod_lt _ (Nat.pos_of_ne_zero hm)).le

/-- Settles O19: no quotient or remainder needs narrowing. -/
theorem divModUnsigned : Obligations.DivModUnsigned := by
  unfold Obligations.DivModUnsigned
  exact ⟨binaryRule_of_binaryOp (i := .div) rfl rfl toNat_divWord, binaryRule_of_binaryOp (i := .mod) rfl rfl toNat_modWord⟩

/-- Settles O24: the remainder of the exact sum or product is below the modulus, so it needs no narrowing. -/
theorem addmodMulmodWide : Obligations.AddmodMulmodWide := by
  unfold Obligations.AddmodMulmodWide
  exact ⟨ternaryRule_of_ternaryOp (i := .addmod) rfl rfl toNat_addmodWord,
    ternaryRule_of_ternaryOp (i := .mulmod) rfl rfl toNat_mulmodWord⟩

/-- Settles O20: quotient and remainder are those of the natural numbers. -/
theorem unsignedDivisionIdentity : Obligations.UnsignedDivisionIdentity := by
  unfold Obligations.UnsignedDivisionIdentity
  intro s a b below hs hb
  have hb0 := toNat_ne_zero hb
  refine ⟨divWord a b, modWord a b, binaryOp_cons hs, binaryOp_cons hs, ?_⟩
  rw [toNat_divWord, toNat_modWord, if_neg hb0, if_neg hb0]
  exact ⟨(Nat.div_add_mod ..).symm, Nat.mod_lt _ (Nat.pos_of_ne_zero hb0)⟩

/-! The power (R80). -/

/-- The 256 rounds suffice for every exponent. -/
theorem toNat_expWord (x y : Word) : (expWord x y).toNat = x.toNat ^ y.toNat % 2 ^ 256 := by
  rw [expWord, wrapNat, BitVec.toNat_ofNat, expRounds_mod _ _ _ _ y.isLt, Nat.one_mul]

/-- Settles O25: the square-and-multiply rounds compute the power modulo `2^256`. -/
theorem expIsThePower : Obligations.ExpIsThePower := by
  unfold Obligations.ExpIsThePower
  exact binaryRule_of_binaryOp (i := .exp) rfl rfl toNat_expWord

/-! Signed division (R76, R77, R81, R82). The sign-and-magnitude forms of the ALU are the division of `BitVec` that truncates. -/

/-- A magnitude with a sign is the narrowed signed integer. -/
theorem wrapSigned_eq_ofInt (negative : Bool) (n : Nat) :
    wrapSigned negative n = BitVec.ofInt 256 (if negative then -(n : Int) else n) := by
  cases negative <;> rfl

theorem sdivWord_zero (a : Word) : sdivWord a 0 = 0 := rfl
theorem smodWord_zero (a : Word) : smodWord a 0 = 0 := rfl

theorem toInt_eq_zero_iff (w : Word) : w.toInt = 0 ↔ w = 0 := BitVec.toInt_inj (y := 0#256)

theorem sdivWord_eq_ofInt_tdiv {a b : Word} (hb : b ≠ 0) : sdivWord a b = BitVec.ofInt 256 (a.toInt.tdiv b.toInt) := by
  rw [sdivWord, if_neg (toNat_ne_zero hb), wrapSigned_eq_ofInt, tdiv_eq_magnitudes]

theorem smodWord_eq_ofInt_tmod {a b : Word} (hb : b ≠ 0) : smodWord a b = BitVec.ofInt 256 (a.toInt.tmod b.toInt) := by
  rw [smodWord, if_neg (toNat_ne_zero hb), wrapSigned_eq_ofInt, tmod_eq_magnitudes]

theorem zero_sdivWord (b : Word) : sdivWord 0 b = 0 := by
  by_cases hb : b = 0
  · rw [hb, sdivWord_zero]
  · rw [sdivWord_eq_ofInt_tdiv hb, (toInt_eq_zero_iff 0).mpr rfl, Int.zero_tdiv]
    rfl

theorem zero_smodWord (b : Word) : smodWord 0 b = 0 := by
  by_cases hb : b = 0
  · rw [hb, smodWord_zero]
  · rw [smodWord_eq_ofInt_tmod hb, (toInt_eq_zero_iff 0).mpr rfl, Int.zero_tmod]
    rfl

theorem sdivWord_eq_sdiv {a b : Word} (hb : b ≠ 0) : sdivWord a b = a.sdiv b :=
  BitVec.eq_of_toInt_eq (by rw [sdivWord_eq_ofInt_tdiv hb, BitVec.toInt_ofInt, BitVec.toInt_sdiv])

/-- The overflow case of SDIV: the quotient `2^255` wraps to `MIN`. -/
theorem sdivWord_overflow : sdivWord (BitVec.intMin 256) (BitVec.allOnes 256) = BitVec.intMin 256 := by decide

/-- Outside the overflow case the truncated quotient is in the signed range. -/
theorem toInt_sdivWord {a b : Word} (hb : b ≠ 0) (hover : ¬(a = BitVec.intMin 256 ∧ b = BitVec.allOnes 256)) :
    (sdivWord a b).toInt = a.toInt.tdiv b.toInt := by
  rw [sdivWord_eq_sdiv hb, BitVec.toInt_sdiv_of_ne_or_ne]
  rwa [BitVec.neg_one_eq_allOnes, ← not_and_or]

/-- The truncated remainder is always in the signed range. -/
theorem toInt_smodWord {a b : Word} (hb : b ≠ 0) : (smodWord a b).toInt = a.toInt.tmod b.toInt := by
  rw [smodWord_eq_ofInt_tmod hb, ← BitVec.toInt_srem, BitVec.ofInt_toInt]

/-- Settles O21: the narrowed truncated quotient and remainder; the overflow case is one evaluation. -/
theorem sdivSmodSigned : Obligations.SdivSmodSigned := by
  unfold Obligations.SdivSmodSigned
  refine ⟨binaryRule_of_binaryOp (i := .sdiv) (op := sdivWord) rfl rfl fun a b => ⟨?_, ?_, sdivWord_eq_ofInt_tdiv⟩,
    binaryRule_of_binaryOp (i := .smod) (op := smodWord) rfl rfl fun a b => ⟨?_, smodWord_eq_ofInt_tmod⟩⟩
  · rintro rfl
    exact sdivWord_zero a
  · rintro rfl rfl
    exact sdivWord_overflow
  · rintro rfl
    exact smodWord_zero a

/-- A truncated remainder is 0 or has the sign of the dividend. -/
theorem tmod_eq_zero_or_sign (x y : Int) : x.tmod y = 0 ∨ (x.tmod y).sign = x.sign := by
  rw [Int.sign_tmod]
  split
  · next hdvd => exact .inl (Int.tmod_eq_zero_of_dvd hdvd)
  · exact .inr rfl

/-- Settles O23: quotient and remainder are those of the integers, truncated. -/
theorem signedDivisionIdentity : Obligations.SignedDivisionIdentity := by
  unfold Obligations.SignedDivisionIdentity
  intro s a b below hs hb hover
  have hd := toInt_sdivWord hb hover
  have hm := toInt_smodWord (a := a) hb
  refine ⟨sdivWord a b, smodWord a b, binaryOp_cons hs, binaryOp_cons hs, ?_, ?_, ?_⟩
  · rw [hd, hm, Int.mul_tdiv_add_tmod]
  · rw [hm, Int.natAbs_tmod]
    exact Nat.mod_lt _ (Int.natAbs_pos.mpr (mt (toInt_eq_zero_iff b).mp hb))
  · rw [hm]
    exact (tmod_eq_zero_or_sign a.toInt b.toInt).imp_left fun h0 => (toInt_eq_zero_iff _).mp (hm.trans h0)

/-- The overflow case, in signed readings. -/
theorem overflow_iff (a b : Word) :
    (a = BitVec.intMin 256 ∧ b = BitVec.allOnes 256) ↔ a.toInt = -2 ^ 255 ∧ b.toInt = -1 := by
  rw [← BitVec.toInt_inj, ← BitVec.toInt_inj (y := BitVec.allOnes 256), BitVec.toInt_intMin, BitVec.toInt_allOnes]
  rfl

/-- Outside the overflow case, a quotient by its operands' signs and magnitudes. -/
theorem toInt_sdivWord_magnitudes {a b : Word} (hb : b.toInt ≠ 0) (hover : ¬(a.toInt = -2 ^ 255 ∧ b.toInt = -1)) :
    (sdivWord a b).toInt = if decide (a.toInt < 0) != decide (b.toInt < 0)
      then -((a.toInt.natAbs / b.toInt.natAbs : Nat) : Int) else (a.toInt.natAbs / b.toInt.natAbs : Nat) := by
  rw [toInt_sdivWord (mt (toInt_eq_zero_iff b).mpr hb) (mt (overflow_iff a b).mp hover), tdiv_eq_magnitudes]

/-- A remainder by its dividend's sign and the magnitudes. -/
theorem toInt_smodWord_magnitudes {a b : Word} (hb : b.toInt ≠ 0) :
    (smodWord a b).toInt = if decide (a.toInt < 0)
      then -((a.toInt.natAbs % b.toInt.natAbs : Nat) : Int) else (a.toInt.natAbs % b.toInt.natAbs : Nat) := by
  rw [toInt_smodWord (mt (toInt_eq_zero_iff b).mpr hb), tmod_eq_magnitudes]

/-- Settles O22, row by row: the signs of the operands choose the signs of quotient and remainder. -/
theorem signedDivisionTable : Obligations.SignedDivisionTable := by
  unfold Obligations.SignedDivisionTable
  intro s a b below hs p q
  refine ⟨sdivWord a b, smodWord a b, binaryOp_cons hs, binaryOp_cons hs, fun ha hb => ?_, fun ha hb => ?_, fun ha hb => ?_,
    fun ha hb => ⟨?_, ?_⟩, fun ha => ?_, fun hb => ?_⟩
  · rw [toInt_sdivWord_magnitudes hb.ne' (by omega), toInt_smodWord_magnitudes hb.ne']
    simp [ha.not_gt, hb.not_gt, p, q]
  · rw [toInt_sdivWord_magnitudes hb.ne' (by omega), toInt_smodWord_magnitudes hb.ne']
    simp [ha, hb.not_gt, p, q]
  · rw [toInt_sdivWord_magnitudes hb.ne (by omega), toInt_smodWord_magnitudes hb.ne]
    simp [ha.not_gt, hb, p, q]
  · rw [toInt_smodWord_magnitudes hb.ne]
    simp [ha, p, q]
  · split
    · next hover =>
      obtain ⟨rfl, rfl⟩ := (overflow_iff a b).mpr (by omega)
      exact sdivWord_overflow
    · next hover =>
      rw [toInt_sdivWord_magnitudes hb.ne (by omega)]
      simp [ha, hb, p, q]
  · obtain rfl := (toInt_eq_zero_iff a).mp ha
    exact ⟨zero_sdivWord b, zero_smodWord b⟩
  · obtain rfl := (toInt_eq_zero_iff b).mp hb
    exact ⟨sdivWord_zero a, smodWord_zero a⟩

end Sys2Proof.Proofs
end

section
/-! Comparison, bitwise, byte and shift (41_compare_bitwise_shift.md): the unary operand shape of R90, the truth Words of R91 to
R96, and the ALU's arithmetic forms of R100 to R104 as the bit-vector operations they compute. -/

namespace Sys2Proof.Proofs

open Sys2Proof.Machine Sys2Proof.Safety Sys2Proof.Laws

/-! The unary operand shape (R90). -/

/-- An instruction that runs `unaryOp` meets the unary rule of every relation its function meets. -/
theorem unaryRule_of_unaryOp {i : Instr} {op : Word → Word} {result : Word → Word → Prop}
    (hi : i.pushOperand = none) (hexec : exec i = unaryOp op) (hop : ∀ a, result a (op a)) : UnaryRule i.opcode i result := by
  refine ⟨encodedBy_opcode hi, fun s a below hs => ⟨op a, hop a, ?_⟩, fun s hs => ?_⟩
  · rw [hexec, unaryOp_cons hs]
  · rw [Raises, hexec, unaryOp_short hs]

/-! NOT, BYTE and the shifts compute bit-vector operations (R100 to R104). -/

/-- `ONES - u(a)` is the complement. -/
theorem notWord_eq_not (a : Word) : notWord a = ~~~a := by
  apply BitVec.eq_of_toNat_eq
  have ha := a.isLt
  rw [notWord, wrap, ones, BitVec.toNat_allOnes, BitVec.toNat_not, ← Int.natCast_sub (by omega), BitVec.ofInt_natCast,
    BitVec.toNat_ofNat, Nat.mod_eq_of_lt (by omega)]

theorem byteWord_of_ge {i : Word} (h : 32 ≤ i.toNat) (x : Word) : byteWord i x = 0 := if_pos h

theorem toNat_byteWord {i : Word} (h : i.toNat < 32) (x : Word) :
    (byteWord i x).toNat = x.toNat / 2 ^ (8 * (31 - i.toNat)) % 256 := by
  rw [byteWord, if_neg (by omega), wrapNat, BitVec.toNat_ofNat, Nat.mod_eq_of_lt (by omega)]

/-- The byte R101 computes by division is the slice of R7. -/
theorem byteWord_eq_byteAt {i : Word} (h : i.toNat < 32) (x : Word) : byteWord i x = (byteAt x i.toNat).setWidth 256 := by
  apply BitVec.eq_of_toNat_eq
  rw [toNat_byteWord h, BitVec.toNat_setWidth_of_le (by decide), toNat_byteAt x h, Nat.pow_mul]

theorem shlWord_eq_shiftLeft (v n : Word) : shlWord v n = v <<< n.toNat := by
  rw [shlWord]
  split
  · next h => exact (BitVec.shiftLeft_eq_zero h).symm
  · apply BitVec.eq_of_toNat_eq
    rw [wrapNat, BitVec.toNat_ofNat, BitVec.toNat_shiftLeft, Nat.shiftLeft_eq]

theorem shrWord_eq_ushiftRight (v n : Word) : shrWord v n = v >>> n.toNat := by
  rw [shrWord]
  split
  · next h => exact (BitVec.ushiftRight_eq_zero h).symm
  · apply BitVec.eq_of_toNat_eq
    rw [toNat_wrapNat_of_le (Nat.div_le_self ..), BitVec.toNat_ushiftRight, Nat.shiftRight_eq_div_pow]

/-- The floor of `z / 2^n` is the shift of integers. -/
theorem fdiv_two_pow (z : Int) (n : Nat) : z.fdiv (2 ^ n) = z >>> n := by
  rw [Int.fdiv_eq_ediv_of_nonneg z (by positivity), Int.shiftRight_eq_div_pow, Nat.cast_pow, Nat.cast_ofNat]

/-- From the width on, an arithmetic shift leaves the sign bit in every place. -/
theorem sshiftRight_of_ge (v : Word) {n : Nat} (h : 256 ≤ n) : v.sshiftRight n = if v.msb then BitVec.allOnes 256 else 0 := by
  cases hm : v.msb
  · rw [BitVec.sshiftRight_eq_of_msb_false hm, BitVec.ushiftRight_eq_zero h, if_neg Bool.false_ne_true]
    rfl
  · rw [BitVec.sshiftRight_eq_of_msb_true hm, BitVec.ushiftRight_eq_zero h, BitVec.not_zero, if_pos rfl]

theorem sarWord_eq_sshiftRight (v n : Word) : sarWord v n = v.sshiftRight n.toNat := by
  rw [sarWord]
  split
  · next h => exact (sshiftRight_of_ge v h).symm
  · rw [fdiv_two_pow, wrap, BitVec.sshiftRight_eq]

/-- Settles O30: the difference from `ONES` is the complement. -/
theorem notInvertsEveryBit : Obligations.NotInvertsEveryBit := by
  unfold Obligations.NotInvertsEveryBit
  refine unaryRule_of_unaryOp (i := .not) (op := notWord) rfl rfl fun a => ?_
  rw [notWord_eq_not]
  exact ⟨BitVec.toNat_not, fun k hk => by simp [hk]⟩

/-- Settles O31: one digit of the value in base 256, which is the slice of the Word at that place. -/
theorem byteExtractsFromTheTop : Obligations.ByteExtractsFromTheTop := by
  unfold Obligations.ByteExtractsFromTheTop
  exact binaryRule_of_binaryOp (i := .byte) (op := byteWord) rfl rfl fun i x =>
    ⟨fun h => byteWord_of_ge h x, fun h => ⟨byteWord_eq_byteAt h x, toNat_byteWord h x⟩⟩

/-- Settles O32: the product and the quotient by `2^n` are the shifts of bit vectors. -/
theorem logicalShifts : Obligations.LogicalShifts := by
  unfold Obligations.LogicalShifts
  refine ⟨binaryRule_of_binaryOp (i := .shl) (op := shlWord) rfl rfl fun v n => ?_,
    binaryRule_of_binaryOp (i := .shr) (op := shrWord) rfl rfl fun v n => ?_⟩
  · rw [shlWord_eq_shiftLeft]
    refine ⟨BitVec.shiftLeft_eq_zero, fun _ => ?_, fun k hk => ?_⟩
    · rw [BitVec.toNat_shiftLeft, Nat.shiftLeft_eq]
    · simp only [BitVec.getLsbD_shiftLeft, hk, decide_true, Bool.true_and, ← decide_not, Nat.not_lt]
  · rw [shrWord_eq_ushiftRight]
    refine ⟨BitVec.ushiftRight_eq_zero, fun _ => ?_, fun k _ => ?_⟩
    · rw [BitVec.toNat_ushiftRight, Nat.shiftRight_eq_div_pow]
    · rw [BitVec.getLsbD_ushiftRight, Nat.add_comm]

/-- Settles O33: the floor of the signed quotient is the arithmetic shift of bit vectors. -/
theorem arithmeticShift : Obligations.ArithmeticShift := by
  unfold Obligations.ArithmeticShift
  refine binaryRule_of_binaryOp (i := .sar) (op := sarWord) rfl rfl fun v n => ?_
  rw [sarWord_eq_sshiftRight]
  have hmsb : v.msb = v.getLsbD 255 := BitVec.msb_eq_getLsbD_last v
  refine ⟨fun h hs => ?_, fun h hs => ?_, fun _ => ?_, fun k hk => ?_⟩
  · rw [sshiftRight_of_ge v h, hmsb, if_pos hs]
  · rw [sshiftRight_of_ge v h, hmsb, hs, if_neg Bool.false_ne_true]
  · rw [fdiv_two_pow, BitVec.sshiftRight_eq]
  · rw [BitVec.getLsbD_sshiftRight, hmsb, Nat.add_comm]
    simp [hk, Nat.lt_succ_iff]

/-! The comparisons push a truth Word (R91 to R96). -/

/-- The truth Word of a strict comparison, by the two sides of a linear order. -/
theorem truthWord_lt {α : Type} [LinearOrder α] (x y : α) [Decidable (x < y)] :
    (x < y → truthWord (decide (x < y)) = 1) ∧ (y ≤ x → truthWord (decide (x < y)) = 0) := by
  rw [← not_lt]
  exact truthWord_decide (x < y)

/-- Two Words are equal exactly when no bit differs. -/
theorem word_eq_iff_getLsbD (a b : Word) : a = b ↔ ∀ k, k < 256 → a.getLsbD k = b.getLsbD k :=
  ⟨fun h _ _ => by rw [h], BitVec.eq_of_getLsbD_eq⟩

/-- Settles O26: GT is LT with its operands exchanged. -/
theorem unsignedComparisons : Obligations.UnsignedComparisons := by
  unfold Obligations.UnsignedComparisons
  exact ⟨binaryRule_of_binaryOp (i := .lt) (op := ltWord) rfl rfl fun a b => truthWord_lt a.toNat b.toNat,
    binaryRule_of_binaryOp (i := .gt) (op := gtWord) rfl rfl fun a b => truthWord_lt b.toNat a.toNat⟩

/-- Settles O27: the same comparisons on the signed readings. -/
theorem signedComparisons : Obligations.SignedComparisons := by
  unfold Obligations.SignedComparisons
  exact ⟨binaryRule_of_binaryOp (i := .slt) (op := sltWord) rfl rfl fun a b => truthWord_lt a.toInt b.toInt,
    binaryRule_of_binaryOp (i := .sgt) (op := sgtWord) rfl rfl fun a b => truthWord_lt b.toInt a.toInt⟩

/-- Settles O28: equality of Words is agreement of all 256 bits. -/
theorem equalityTests : Obligations.EqualityTests := by
  unfold Obligations.EqualityTests
  refine ⟨binaryRule_of_binaryOp (i := .eq) (op := eqWord) rfl rfl fun a b => ?_,
    unaryRule_of_unaryOp (i := .iszero) (op := iszeroWord) rfl rfl fun a => truthWord_decide (a.toNat = 0)⟩
  obtain ⟨htrue, hfalse⟩ := truthWord_decide (a = b)
  refine ⟨fun h => htrue ((word_eq_iff_getLsbD a b).mpr h), fun ⟨k, hk, hne⟩ => hfalse fun h => ?_⟩
  exact hne ((word_eq_iff_getLsbD a b).mp h k hk)

/-- Settles O29: the bits of the bit-vector operations. -/
theorem bitwiseBitForBit : Obligations.BitwiseBitForBit := by
  unfold Obligations.BitwiseBitForBit
  exact ⟨binaryRule_of_binaryOp (i := .and) (op := andWord) rfl rfl fun _ _ _ _ => BitVec.getLsbD_and,
    binaryRule_of_binaryOp (i := .or) (op := orWord) rfl rfl fun _ _ _ _ => BitVec.getLsbD_or,
    binaryRule_of_binaryOp (i := .xor) (op := xorWord) rfl rfl fun _ _ _ _ => BitVec.getLsbD_xor⟩

end Sys2Proof.Proofs
end

section
/-! The stack (42_stack.md): POP, the three families PUSHn, DUPn and SWAPn, and that every width or depth has its instruction. -/

namespace Sys2Proof.Proofs

open Sys2Proof.Machine Sys2Proof.Safety Sys2Proof.Laws

/-! POP (R116). -/

theorem execPop_cons {s : State} {a : Word} {below : List Word} (h : s.stack = a :: below) :
    execPop s = .next { s with stack := below, pc := s.pc + 1 } := by
  simp [execPop, popOne_cons h, complete]

theorem execPop_short {s : State} (h : s.stack.length < 1) : execPop s = .next (faultState .stackUnderflow s) := by
  simp [execPop, popOne_short h]

/-- Settles O34, by whether the stack has a top. -/
theorem popDropsTheTop : Obligations.PopDropsTheTop := by
  unfold Obligations.PopDropsTheTop
  exact ⟨encodedBy_opcode (i := .pop) rfl, fun _ _ _ => execPop_cons, fun _ => execPop_short⟩

/-! PUSHn (R117). -/

/-- Every width from 1 to 32 has its PUSHn, with any immediate: the table's entry for the byte `0x5F + n` builds it. -/
theorem exists_pushOperand {n : Nat} (h1 : 1 ≤ n) (h32 : n ≤ 32) (imm : List Byte) :
    ∃ i : Instr, i.pushOperand = some (n, imm) := by
  have hwidth := pushWidth_pushOpcode h1 h32
  obtain ⟨d, ht, hlen⟩ := table_of_pushWidth_pos (op := BitVec.ofNat 8 (0x5F + n)) (by omega)
  rw [hwidth] at hlen
  refine ⟨d.build imm, ?_⟩
  rw [pushOperand_build ht (by omega), hlen]

/-- Settles O35: the encoder writes the byte and the immediate, and the decoder takes back what the encoder wrote (O9). -/
theorem pushPushesItsImmediate : Obligations.PushPushesItsImmediate := by
  unfold Obligations.PushPushesItsImmediate
  refine ⟨fun n h1 h32 imm => exists_pushOperand h1 h32 imm, fun i n imm hi hlen => ?_⟩
  obtain ⟨-, -, -, himm, hwf, hop, h1, h32⟩ := table_of_pushOperand hi
  have henc : encode i = BitVec.ofNat 8 (0x5F + n) :: imm := by rw [encode, hop, himm]
  have hexec : ∀ s, exec i s = pushOp n (wordOfBytes imm) s := fun s => (exec_of_pushOperand hi s).1
  refine ⟨h1, h32, henc, fun rest => ?_, fun s hroom => ?_, fun s hfull => ?_⟩
  · rw [← henc, decodeOfEncode i rest (by rw [hwf, hlen, beq_self_eq_true])]
  · rw [hexec, pushOp_room hroom, wordOfBytes, wrapNat, be_eq_bigEndian]
  · rw [Raises, hexec, pushOp_full hfull]

/-! DUPn and SWAPn (R118, R119). -/

/-- An instruction of a given index exists where some entry of the table builds one. -/
theorem exists_of_table {index : Instr → Option Nat} {op : Byte} {n : Nat}
    (h : ((table op).bind fun d => index (d.build [])) = some n) : ∃ i, index i = some n := by
  obtain ⟨d, -, hd⟩ := Option.bind_eq_some_iff.mp h
  exact ⟨d.build [], hd⟩

/-- The table's entry for the byte `0x7F + n` is that of DUPn. -/
theorem dupIndex_of_table :
    ∀ n ≤ 16, 1 ≤ n → ((table (BitVec.ofNat 8 (0x7F + n))).bind fun d => (d.build []).dupIndex) = some n := by
  decide

/-- The table's entry for the byte `0x8F + n` is that of SWAPn. -/
theorem swapIndex_of_table :
    ∀ n ≤ 16, 1 ≤ n → ((table (BitVec.ofNat 8 (0x8F + n))).bind fun d => (d.build []).swapIndex) = some n := by
  decide

theorem opcode_of_dupIndex {i : Instr} {n : Nat} (h : i.dupIndex = some n) :
    i.opcode = BitVec.ofNat 8 (0x7F + n) ∧ i.pushOperand = none := by
  cases i <;> simp only [Instr.dupIndex, Option.some.injEq, reduceCtorEq] at h <;> (obtain rfl := h; exact ⟨rfl, rfl⟩)

theorem encodedBy_of_dupIndex {i : Instr} {n : Nat} (h : i.dupIndex = some n) :
    EncodedBy (BitVec.ofNat 8 (0x7F + n)) i := by
  obtain ⟨hop, hpush⟩ := opcode_of_dupIndex h
  exact hop ▸ encodedBy_opcode hpush

theorem opcode_of_swapIndex {i : Instr} {n : Nat} (h : i.swapIndex = some n) :
    i.opcode = BitVec.ofNat 8 (0x8F + n) ∧ i.pushOperand = none := by
  cases i <;> simp only [Instr.swapIndex, Option.some.injEq, reduceCtorEq] at h <;> (obtain rfl := h; exact ⟨rfl, rfl⟩)

theorem encodedBy_of_swapIndex {i : Instr} {n : Nat} (h : i.swapIndex = some n) :
    EncodedBy (BitVec.ofNat 8 (0x8F + n)) i := by
  obtain ⟨hop, hpush⟩ := opcode_of_swapIndex h
  exact hop ▸ encodedBy_opcode hpush

/-- Settles O37: DUPn duplicates at depth `n - 1`, with `n` at least 1. -/
theorem dupCopiesOneEntry : Obligations.DupCopiesOneEntry := by
  unfold Obligations.DupCopiesOneEntry
  refine ⟨fun n h1 h16 => exists_of_table (dupIndex_of_table n h16 h1), fun i n hi => ?_⟩
  have hexec : ∀ s, exec i s = dupDepth (n - 1) s := fun s => (exec_of_dupIndex hi s).1
  obtain ⟨-, h1, h16, -⟩ := exec_of_dupIndex hi .reset
  refine ⟨h1, h16, encodedBy_of_dupIndex hi, fun s w hw hroom => ?_, fun s hshort => ?_, fun s hdeep hfull => ?_⟩
  · rw [hexec, dupDepth_ok hw hroom]
  · rw [Raises, hexec, dupDepth_short (by omega)]
  · rw [Raises, hexec, dupDepth_full (by omega) hfull]

/-- SWAPn on a stack written as its top, the entries between, the entry at depth `n` and the rest. -/
theorem swapDepth_between {s : State} {top deep : Word} {between below : List Word}
    (h : s.stack = top :: between ++ deep :: below) :
    swapDepth (between.length + 1) s = .next { s with stack := deep :: between ++ top :: below, pc := s.pc + 1 } := by
  rw [swapDepth_ok (top := top) (deep := deep) (by simp [h]) (by simp [h])]
  simp [h]

/-- Settles O38: with `n - 1` entries between, the entry at depth `n` is the one after them. -/
theorem swapExchangesTwoEntries : Obligations.SwapExchangesTwoEntries := by
  unfold Obligations.SwapExchangesTwoEntries
  refine ⟨fun n h1 h16 => exists_of_table (swapIndex_of_table n h16 h1), fun i n hi => ?_⟩
  have hexec : ∀ s, exec i s = swapDepth n s := fun s => (exec_of_swapIndex hi s).1
  obtain ⟨-, h1, h16, -⟩ := exec_of_swapIndex hi .reset
  refine ⟨h1, h16, encodedBy_of_swapIndex hi, fun s top deep between below hlen hs => ?_, fun s hshort => ?_⟩
  · obtain rfl : n = between.length + 1 := by omega
    rw [hexec, swapDepth_between hs]
  · rw [Raises, hexec, swapDepth_short hshort]

end Sys2Proof.Proofs
end

section
/-! Memory access (43_memory_access.md): MLOAD, MSTORE and MSTORE8, and the bytes of the Words they read and write. -/

namespace Sys2Proof.Proofs

open Sys2Proof.Machine Sys2Proof.Safety Sys2Proof.Laws

/-! Words in memory, byte by byte (20_memory.md R31, R38, R39). -/

/-- Byte `k` of the Word read from `x` is the byte at `x + k`. -/
theorem byteAt_readWord (m : Memory) (x : Nat) {k : Nat} (h : k < 32) :
    byteAt (wordOfBytes (m.readBytes x 32)) k = m.read (x + k) := by
  rw [byteAt_wordOfBytes (readBytes_length m x 32) h, getElem?_readBytes m h, Option.getD_some]

/-- Inside the bytes written from `x` on, the byte at `x + k` is byte `k` of them. -/
theorem read_writeBytes_inside (m : Memory) (x : Nat) {bytes : List Byte} {k : Nat} (h : k < bytes.length) :
    (m.writeBytes x bytes).read (x + k) = (bytes[k]?).getD 0 := by
  rw [read_writeBytes, if_pos (by omega), Nat.add_sub_cancel_left]

/-- A Word written at `x` puts its byte `k` at `x + k`. -/
theorem read_writeWord_inside (m : Memory) (x : Nat) (w : Word) {k : Nat} (h : k < 32) :
    (m.writeBytes x (bytesBE 32 w.toNat)).read (x + k) = byteAt w k := by
  rw [read_writeBytes_inside m x (by rwa [bytesBE_length]), getD_bytesBE_word w h]

/-- A Word written at `x` leaves every address outside its 32 bytes as before. -/
theorem read_writeWord_outside (m : Memory) {x a : Nat} (w : Word) (h : a < x ∨ x + 32 ≤ a) :
    (m.writeBytes x (bytesBE 32 w.toNat)).read a = m.read a :=
  read_writeBytes_outside m (by rwa [bytesBE_length])

/-! The three instructions (R121 to R123). -/

/-- Settles O39: within the ceiling the Word of the 32 bytes at the offset is pushed, past it the growth faults. -/
theorem mloadReadsAWord : Obligations.MloadReadsAWord := by
  unfold Obligations.MloadReadsAWord
  refine ⟨encodedBy_opcode (i := .mload) rfl, fun s offset below hs => ⟨fun hle => ?_, execMload_limit hs⟩,
    fun _ => execMload_short⟩
  exact ⟨_, fun k hk => byteAt_readWord s.mem offset.toNat hk, execMload_ok hs hle⟩

/-- Settles O40: the new memory is the old one with the 32 bytes of the Word written at the offset. -/
theorem mstoreWritesAWord : Obligations.MstoreWritesAWord := by
  unfold Obligations.MstoreWritesAWord
  refine ⟨encodedBy_opcode (i := .mstore) rfl, fun s offset w below hs => ⟨fun hle => ?_, execMstore_limit hs⟩,
    fun _ => execMstore_short⟩
  exact ⟨_, fun k hk => read_writeWord_inside s.mem offset.toNat w hk, fun a ha => read_writeWord_outside s.mem w ha,
    execMstore_ok hs hle⟩

/-- Settles O41: the new memory is the old one with one byte, the low 8 bits of the Word, written at the offset. -/
theorem mstore8WritesAByte : Obligations.Mstore8WritesAByte := by
  unfold Obligations.Mstore8WritesAByte
  refine ⟨encodedBy_opcode (i := .mstore8) rfl, fun s offset w below hs => ⟨fun hle => ?_, execMstore8_limit hs⟩,
    fun _ => execMstore8_short⟩
  refine ⟨s.mem.write offset.toNat (w.setWidth 8), ?_, fun a ha => ?_, execMstore8_ok hs hle⟩
  · rw [read_write, if_pos rfl, BitVec.ofNat_toNat]
  · rw [read_write, if_neg ha]

end Sys2Proof.Proofs
end

section
/-! Jumps (44_jump.md): the analysis of R131 is exact, what JUMP, JUMPI and JUMPDEST do, and that a jump lands on a marker. -/

namespace Sys2Proof.Proofs

open Sys2Proof.Machine Sys2Proof.Safety Sys2Proof.Laws

/-! The jump destination set (R131, R132). -/

/-- The scan at an instruction's start, in one form for every byte: the offset is recorded at a marker, and the cursor moves past
the immediate, which a marker and a byte that is no PUSH have none of. -/
theorem mem_analyseFrom_cons {i t : Nat} {op : Byte} {rest : List Byte} :
    t ∈ analyseFrom i 0 (op :: rest) ↔ op = jumpdestOpcode ∧ t = i ∨ t ∈ analyseFrom (i + 1) (immLen op) rest := by
  rw [analyseFrom]
  split
  · next hpos =>
    have hop : op ≠ jumpdestOpcode := fun hop => absurd hpos (by rw [hop]; decide)
    simp [hop]
  · next hpos =>
    rw [Nat.eq_zero_of_not_pos hpos]
    split <;> next hop => simp [hop]

/-- What the scan records is the offset of a marker. -/
theorem marker_of_mem_analyseFrom {i skip t : Nat} {rest : List Byte} (h : t ∈ analyseFrom i skip rest) :
    ∃ k, t = i + k ∧ rest[k]? = some 0x5B := by
  induction rest generalizing i skip with
  | nil => simp [analyseFrom] at h
  | cons op rest ih =>
    have past : ∀ n, t ∈ analyseFrom (i + 1) n rest → ∃ k, t = i + k ∧ (op :: rest)[k]? = some 0x5B := by
      intro n hn
      obtain ⟨k, rfl, hk⟩ := ih hn
      exact ⟨k + 1, by omega, hk⟩
    cases skip with
    | succ skip => exact past skip h
    | zero =>
      obtain ⟨rfl, rfl⟩ | h := mem_analyseFrom_cons.mp h
      · exact ⟨0, rfl, rfl⟩
      · exact past _ h

/-- From a cursor `i` whose next boundary is `i + skip`, the scan records every marker at a boundary from there on: it steps
from each boundary to the next one, since no boundary lies within an instruction. -/
theorem mem_analyseFrom_of_boundary {code : List Byte} {i skip t : Nat} {rest : List Byte} (hrest : code.drop i = rest)
    (hb : Boundary code (i + skip)) (hle : i + skip ≤ t) (ht : Boundary code t) (hmark : code[t]? = some 0x5B) :
    t ∈ analyseFrom i skip rest := by
  induction rest generalizing i skip with
  | nil =>
    have hlt : t < code.length := (List.getElem?_eq_some_iff.mp hmark).1
    have hend := List.drop_eq_nil_iff.mp hrest
    omega
  | cons op rest ih =>
    have hdrop : code.drop (i + 1) = rest := by rw [← List.drop_drop, hrest, List.drop_one, List.tail_cons]
    cases skip with
    | succ skip => exact ih hdrop (by rwa [Nat.add_right_comm]) (by omega)
    | zero =>
      have hbyte : code[i]? = some op := by rw [← List.head?_drop, hrest, List.head?_cons]
      rw [mem_analyseFrom_cons, immLen_eq_pushWidth]
      obtain rfl | hlt := Nat.eq_or_lt_of_le hle
      · exact .inl ⟨Option.some.inj (hbyte.symm.trans hmark), rfl⟩
      · exact .inr (ih hdrop (.next i op hb hbyte) (boundary_past_instr hb hbyte ht hlt))

/-- Every jump destination holds a marker. -/
theorem marker_of_mem_analyse {code : List Byte} {t : Nat} (h : t ∈ analyse code) : code[t]? = some 0x5B := by
  obtain ⟨k, rfl, hk⟩ := marker_of_mem_analyseFrom h
  rwa [Nat.zero_add]

/-- Settles O43, from the scan that starts at offset 0, itself a boundary. -/
theorem analysisIsExact : Obligations.AnalysisIsExact := by
  unfold Obligations.AnalysisIsExact
  exact fun code t => ⟨fun h => ⟨boundary_of_mem_analyse h, marker_of_mem_analyse h⟩,
    fun ⟨ht, hmark⟩ => mem_analyseFrom_of_boundary (skip := 0) rfl .entry t.zero_le ht hmark⟩

theorem not_isValidTarget_past {code : List Byte} {t : Word} (h : code.length ≤ t.toNat) : isValidTarget code t = false := by
  rw [← Bool.not_eq_true, isValidTarget_iff]
  exact fun ht => absurd (lt_length_of_mem_analyse ht) (Nat.not_lt.mpr h)

/-! The three instructions (R133 to R135). -/

theorem execJumpdest_eq (s : State) : execJumpdest s = .next { s with pc := s.pc + 1 } := rfl

/-- Settles O44, by whether the destination on top is in the set. -/
theorem jumpGoesToAMarkedDestination : Obligations.JumpGoesToAMarkedDestination := by
  unfold Obligations.JumpGoesToAMarkedDestination
  exact ⟨encodedBy_opcode (i := .jump) rfl, fun _ _ => ⟨isValidTarget_iff, not_isValidTarget_past⟩,
    fun _ _ _ hs => ⟨execJump_valid hs, execJump_invalid hs⟩, fun _ => execJump_short⟩

/-- Settles O45, by the condition, and by whether the destination of a jump taken is in the set. -/
theorem jumpiTestsItsCondition : Obligations.JumpiTestsItsCondition := by
  unfold Obligations.JumpiTestsItsCondition
  refine ⟨encodedBy_opcode (i := .jumpi) rfl, fun s dest cond below hs => ⟨fun hc => ?_, fun hc => ?_, fun hc => ?_⟩,
    fun _ => execJumpi_short⟩
  · exact execJumpi_fallthrough hs (congrArg BitVec.toNat hc)
  · exact execJumpi_valid hs (BitVec.toNat_ne.mp hc)
  · exact execJumpi_invalid hs (BitVec.toNat_ne.mp hc)

/-- Settles O46. -/
theorem jumpdestOnlyAdvances : Obligations.JumpdestOnlyAdvances := by
  unfold Obligations.JumpdestOnlyAdvances
  exact ⟨encodedBy_opcode (i := .jumpdest) rfl, execJumpdest_eq⟩

/-! A jump lands on a marker (R136 (a)). -/

/-- Where the byte at `pc` is the opcode byte of an instruction without an immediate, the step runs that instruction. -/
theorem step_of_byte {i : Instr} (hi : i.pushOperand = none) {s : State} (hr : s.runState = .running)
    (hbyte : s.code[s.pc]? = some i.opcode) : step s = exec i s := by
  obtain ⟨-, hdecode⟩ := encodedBy_opcode hi
  rw [step_running hr, fetchBytes, fetchByte_of_some hbyte, hdecode]

/-- A step on the byte of JUMP, or of JUMPI with a non-zero condition, goes to the destination on top if that is in the set, and
faults otherwise. -/
theorem step_jump_cases {s : State} {dest : Word} {below : List Word} (hr : s.runState = .running)
    (hs : s.stack = dest :: below)
    (hbyte : s.code[s.pc]? = some 0x56 ∨ s.code[s.pc]? = some 0x57 ∧ ∃ cond rest, below = cond :: rest ∧ cond ≠ 0) :
    (dest.toNat ∈ analyse s.code ∧ ∃ stack, step s = .next { s with stack := stack, pc := dest.toNat }) ∨
      step s = .next (faultState .invalidJumpDestination s) := by
  obtain h56 | ⟨h57, cond, rest, rfl, hc⟩ := hbyte
  · rw [step_of_byte (i := .jump) rfl hr h56]
    by_cases hd : dest.toNat ∈ analyse s.code
    · exact .inl ⟨hd, _, execJump_valid hs hd⟩
    · exact .inr (execJump_invalid hs hd)
  · rw [step_of_byte (i := .jumpi) rfl hr h57]
    by_cases hd : dest.toNat ∈ analyse s.code
    · exact .inl ⟨hd, _, execJumpi_valid hs (BitVec.toNat_ne.mp hc) hd⟩
    · exact .inr (execJumpi_invalid hs (BitVec.toNat_ne.mp hc) hd)

/-- Settles O47: a step to a Running state took no fault, so the destination is in the set and holds the byte of JUMPDEST. -/
theorem jumpLandsOnAMarker : Obligations.JumpLandsOnAMarker := by
  unfold Obligations.JumpLandsOnAMarker
  intro s t dest below hr hs hbyte hstep hrt
  obtain ⟨hd, stack, hjump⟩ | hfault := step_jump_cases hr hs hbyte
  · obtain rfl := Host.Outcome.next.inj (hjump.symm.trans hstep)
    have hmark := marker_of_mem_analyse hd
    exact ⟨rfl, hmark, (step_of_byte (i := .jumpdest) rfl hrt hmark).trans (execJumpdest_eq _)⟩
  · obtain rfl := Host.Outcome.next.inj (hfault.symm.trans hstep)
    cases hrt

end Sys2Proof.Proofs
end

section
/-! Context (45_context.md): the pushes of the launch values, and the Word read from call data. -/

namespace Sys2Proof.Proofs

open Sys2Proof.Machine Sys2Proof.Safety Sys2Proof.Laws

/-! CALLDATALOAD (R142). -/

/-- Byte `k` of the Word read from call data at `x` is the byte at `x + k`, and zero past the end. -/
theorem byteAt_callDataWord (callData : List Byte) (x : Nat) {k : Nat} (h : k < 32) :
    byteAt (wordOfBytes (callDataBytes callData x 32)) k = (callData[x + k]?).getD 0 := by
  rw [byteAt_wordOfBytes (callDataBytes_length callData x 32) h, getElem?_callDataBytes callData h, Option.getD_some]

theorem execCalldataload_cons {s : State} {i : Word} {below : List Word} (h : s.stack = i :: below) :
    execCalldataload s =
      .next { s with stack := wordOfBytes (callDataBytes s.callData i.toNat 32) :: below, pc := s.pc + 1 } :=
  unaryOp_cons h

theorem execCalldataload_short {s : State} (h : s.stack.length < 1) :
    execCalldataload s = .next (faultState .stackUnderflow s) :=
  unaryOp_short h

/-- Settles O50: on any offset the Word of the 32 bytes of call data from there on is pushed. -/
theorem calldataloadReadsPaddedBytes : Obligations.CalldataloadReadsPaddedBytes := by
  unfold Obligations.CalldataloadReadsPaddedBytes
  refine ⟨encodedBy_opcode (i := .calldataload) rfl, fun s i below hs => ?_, fun _ => execCalldataload_short⟩
  exact ⟨_, fun k hk => byteAt_callDataWord s.callData i.toNat hk, execCalldataload_cons hs⟩

/-! CALLVALUE, CALLDATASIZE and CODESIZE (R141, R143, R144). -/

/-- An instruction that runs `pushOp` without an immediate meets the push rule of the value it pushes. -/
theorem pushesRule_of_pushOp {i : Instr} {value : State → Word} (hi : i.pushOperand = none)
    (hexec : ∀ s, exec i s = pushOp 0 (value s) s) : PushesRule i.opcode i value := by
  refine ⟨encodedBy_opcode hi, fun s hroom => ?_, fun s hfull => ?_⟩
  · rw [hexec, pushOp_room hroom]
  · rw [Raises, hexec, pushOp_full hfull]

/-- Settles O49: each of the three pushes its launch value, a length narrowed to a Word. -/
theorem contextValuesArePushed : Obligations.ContextValuesArePushed := by
  unfold Obligations.ContextValuesArePushed
  exact ⟨pushesRule_of_pushOp (i := .callvalue) rfl fun _ => rfl,
    pushesRule_of_pushOp (i := .calldatasize) rfl fun _ => rfl,
    pushesRule_of_pushOp (i := .codesize) rfl fun _ => rfl⟩

end Sys2Proof.Proofs
end

section
/-! Halting (46_halt.md): STOP and REVERT, that a run which has ended stays as it is, and the Execution Result of a run. -/

namespace Sys2Proof.Proofs

open Sys2Proof.Machine Sys2Proof.Safety Sys2Proof.Laws

/-! STOP and REVERT (R151, R152). -/

theorem execStop_eq (s : State) : execStop s = .next (halt .normal none s) := rfl

/-- Settles O51: STOP's body is the normal halt, and that halt is also what the fetch past the end answers. -/
theorem stopHaltsNormally : Obligations.StopHaltsNormally := by
  unfold Obligations.StopHaltsNormally
  exact ⟨encodedBy_opcode (i := .stop) rfl, execStop_eq, fun s hr hend => (step_past_end hr hend).trans (execStop_eq s).symm⟩

/-- Settles O52: length 0, a mark within the ceiling, a mark past it, and missing operands. -/
theorem revertReturnsItsRange : Obligations.RevertReturnsItsRange := by
  unfold Obligations.RevertReturnsItsRange
  refine ⟨encodedBy_opcode (i := .revert) rfl, fun s offset length below hs => ⟨fun hzero => ?_, fun hne hle => ?_,
    fun hne hlt => ?_⟩, fun _ => execRevert_short⟩
  · exact execRevert_empty hs (congrArg BitVec.toNat hzero)
  · exact ⟨s.mem.readBytes offset.toNat length.toNat, readBytes_length .., fun k hk => getElem?_readBytes s.mem hk,
      execRevert_ok hs (toNat_ne_zero hne) hle⟩
  · exact execRevert_limit hs (toNat_ne_zero hne) hlt

/-! Runs (47_execution_loop.md R168): the fuel of two runs one after the other adds up. -/

theorem runFor_of_step {s t : State} (h : step s = .next t) (fuel : Nat) : runFor (fuel + 1) s = runFor fuel t := by
  simp [runFor, h]

theorem runFor_ended {s : State} (h : s.runState ≠ .running) (fuel : Nat) : runFor fuel s = s := by
  cases fuel with
  | zero => rfl
  | succ fuel => simp [runFor, step_ended h]

theorem runFor_add (n k : Nat) (s : State) : runFor (n + k) s = runFor k (runFor n s) := by
  induction n generalizing s with
  | zero => rw [Nat.zero_add, runFor]
  | succ n ih =>
    by_cases hr : s.runState = .running
    · obtain ⟨t, ht⟩ := step_total hr
      rw [Nat.add_right_comm, runFor_of_step ht, runFor_of_step ht, ih]
    · simp only [runFor_ended hr]

/-! The Execution Result (R150; 47_execution_loop.md R170). -/

theorem not_running_of_result {s : State} {r : ExecutionResult} (h : s.result = some r) : s.runState ≠ .running := by
  obtain ⟨-, ⟨hr, -⟩ | ⟨hr, -⟩ | ⟨_, hr, -⟩⟩ := result_cases h <;> simp [hr]

/-- Settles O16: a result comes from a terminal state, in which the further steps leave the run. -/
theorem resultDoesNotChange : Obligations.ResultDoesNotChange := by
  unfold Obligations.ResultDoesNotChange
  intro n m ceiling code callData callValue r h hnm
  obtain ⟨k, rfl⟩ := Nat.exists_eq_add_of_le hnm
  rw [execute, runFor_add, runFor_ended (not_running_of_result h)]
  exact h

/-- The invariant records a fault kind in the Faulted state, so that every terminal state has a result. -/
theorem exists_result_iff {s : State} (h : RunInv s) : (∃ r, s.result = some r) ↔ s.runState ≠ .running := by
  refine ⟨fun ⟨_, hres⟩ => not_running_of_result hres, fun hr => ?_⟩
  cases hrs : s.runState with
  | running => exact absurd hrs hr
  | haltedNormal => exact ⟨_, by rw [State.result, hrs]⟩
  | haltedRevert => exact ⟨_, by rw [State.result, hrs]⟩
  | faulted =>
    obtain ⟨k, hk⟩ := Option.ne_none_iff_exists'.mp (h.fault_iff.mp hrs)
    exact ⟨_, by rw [State.result, hrs, hk]⟩

/-- Each outcome belongs to one terminal state: the table of R150, read from the result. -/
theorem outcome_iff {s : State} {r : ExecutionResult} (h : s.result = some r) :
    (r.outcome = .normal ↔ s.runState = .haltedNormal) ∧ (r.outcome = .reverted ↔ s.runState = .haltedRevert) ∧
      ∀ k, r.outcome = .faulted k ↔ s.runState = .faulted ∧ s.faultKind = some k := by
  obtain ⟨-, ⟨hr, ho⟩ | ⟨hr, ho⟩ | ⟨_, hr, hk, ho⟩⟩ := result_cases h
  · simp [hr, ho]
  · simp [hr, ho]
  · simp [hr, hk, ho]

/-- Settles O17: the table of R150 for the final state, whose output the invariant puts in Halted-Revert alone. -/
theorem outputExactlyWhenReverted : Obligations.OutputExactlyWhenReverted := by
  unfold Obligations.OutputExactlyWhenReverted
  intro fuel ceiling code callData callValue s
  have hinv : RunInv s := runsMeetInvariant fuel ceiling code callData callValue
  refine ⟨exists_result_iff hinv, fun r hres => ?_⟩
  obtain ⟨hnormal, hreverted, hfaulted⟩ := outcome_iff hres
  have hout : r.output = s.output := (result_cases hres).1
  exact ⟨hnormal, hreverted, hfaulted, hout, hout ▸ hreverted.trans hinv.output_iff⟩

end Sys2Proof.Proofs
end

section
/-! The execution loop (47_execution_loop.md): the fetch, the step of a decoded instruction, and the state machine of R168. -/

namespace Sys2Proof.Proofs

open Sys2Proof.Machine Sys2Proof.Safety Sys2Proof.Laws

/-! The run state an effect leaves (R168). -/

/-- REVERT ends the run in Halted-Revert, or takes a fault. -/
theorem effect_revert_runState {s t : State} (h : Effect .revert s t) :
    t.runState = .haltedRevert ∨ ∃ k, t = faultState k s := by
  cases h with
  | fault k => exact .inr ⟨k, rfl⟩
  | revert => exact .inl rfl
  | advance _ _ _ hrevert => exact absurd rfl hrevert
  | load _ _ hi => cases hi
  | store _ _ hi => simp at hi
  | jump _ _ hi => simp at hi
  | stop hi => cases hi

/-- Every instruction but STOP and REVERT keeps the run state, or takes a fault. -/
theorem effect_runState {i : Instr} {s t : State} (h : Effect i s t) (hstop : i ≠ .stop) (hrevert : i ≠ .revert) :
    t.runState = s.runState ∨ ∃ k, t = faultState k s := by
  cases h with
  | fault k => exact .inr ⟨k, rfl⟩
  | stop hi => exact absurd hi hstop
  | revert _ _ hi => exact absurd hi hrevert
  | _ => exact .inl rfl

/-! The rows of the state machine (R168). -/

/-- Running to Halted-Normal: a fetch past the end, or the byte of STOP. -/
theorem step_to_haltedNormal {s : State} (hr : s.runState = .running)
    (hbyte : s.code.length ≤ s.pc ∨ s.code[s.pc]? = some 0x00) : ∃ t, step s = .next t ∧ t.runState = .haltedNormal := by
  obtain hend | h00 := hbyte
  · exact ⟨_, step_past_end hr hend, rfl⟩
  · exact ⟨_, (step_of_byte (i := .stop) rfl hr h00).trans (execStop_eq s), rfl⟩

/-- Running to Halted-Revert or Faulted: the byte of REVERT. -/
theorem step_to_haltedRevert {s : State} (hr : s.runState = .running) (hbyte : s.code[s.pc]? = some 0xFD) :
    ∃ t, step s = .next t ∧ (t.runState = .haltedRevert ∨ ∃ k, t = faultState k s) := by
  obtain ⟨t, hexec, heff⟩ := Effect.of_revert (s := s)
  exact ⟨t, (step_of_byte (i := .revert) rfl hr hbyte).trans hexec, effect_revert_runState heff⟩

/-- Running to Running or Faulted: any other byte, the unassigned ones included. -/
theorem step_to_running {s : State} {op : Byte} (hr : s.runState = .running) (hbyte : s.code[s.pc]? = some op)
    (h00 : op ≠ 0x00) (hFD : op ≠ 0xFD) :
    ∃ t, step s = .next t ∧ (t.runState = .running ∨ ∃ k, t = faultState k s) := by
  obtain ⟨t, hstep⟩ := step_total hr
  refine ⟨t, hstep, ?_⟩
  obtain ⟨-, ⟨-, hfault⟩ | ⟨i, hop, -, heff⟩⟩ := step_cases hstep
  · exact .inr ⟨_, hfault⟩
  · rw [fetchByte_of_some hbyte] at hop
    have hstop : i ≠ .stop := by rintro rfl; exact h00 hop.symm
    have hrevert : i ≠ .revert := by rintro rfl; exact hFD hop.symm
    exact hr ▸ effect_runState heff hstop hrevert

/-- Settles O15: a step by the byte at `pc`, no step after the end, and the run one step at a time. -/
theorem stepFollowsTheStateMachine : Obligations.StepFollowsTheStateMachine := by
  unfold Obligations.StepFollowsTheStateMachine
  exact ⟨fun _ => step_to_haltedNormal, fun _ => step_to_haltedRevert, fun _ _ => step_to_running, fun _ => step_ended,
    fun fuel _ _ hstep => runFor_of_step hstep fuel, fun fuel _ hr => runFor_ended hr fuel⟩

/-! The fetch and the dispatch (R161 to R166). -/

/-- Settles O13: within the code, the decoder is given the code from `pc` on. -/
theorem stepRunsDecodedInstruction : Obligations.StepRunsDecodedInstruction := by
  unfold Obligations.StepRunsDecodedInstruction
  intro s i rest hr hlt hdecode
  rw [step_running hr, fetchBytes_of_lt hlt, hdecode]

/-- Settles O14: past the end the fetched byte is that of STOP, and STOP's whole effect is the normal halt. -/
theorem fetchPastEndStops : Obligations.FetchPastEndStops := by
  unfold Obligations.FetchPastEndStops
  exact ⟨fun _ _ _ => fetchByte_of_some, fun _ _ => fetchByte_past, fun _ => step_past_end⟩

end Sys2Proof.Proofs
end

section
/-! Faults (60_exceptions.md): that a faulting step changes nothing else, the one cause each fault kind has for every instruction
and state, and where InvalidOpcode is taken in a run. -/

namespace Sys2Proof.Proofs

open Sys2Proof.Machine Sys2Proof.Safety Sys2Proof.Laws

/-! A faulting step (R186). -/

/-- A step that leads to Faulted took a fault, and that is all it did: no other effect changes the run state to Faulted. -/
theorem step_to_faulted {s t : State} (h : step s = .next t) (ht : t.runState = .faulted) : ∃ k, t = faultState k s := by
  obtain ⟨hr, ⟨-, hfault⟩ | ⟨i, -, -, heff⟩⟩ := step_cases h
  · exact ⟨_, hfault⟩
  · cases heff with
    | fault k => exact ⟨k, rfl⟩
    | stop => cases ht
    | revert => cases ht
    | _ => cases hr.symm.trans ht

/-- Settles O53: the state after the step is the fault state of the one before it. -/
theorem faultsArePrecise : Obligations.FaultsArePrecise := by
  unfold Obligations.FaultsArePrecise
  intro s t hstep ht
  obtain ⟨k, rfl⟩ := step_to_faulted hstep ht
  exact ⟨⟨k, rfl⟩, rfl, rfl, rfl, rfl, rfl, rfl, rfl, rfl, rfl⟩

/-! The causes of the faults (R181 to R185). -/

/-- The cause of MemoryLimitExceeded (R183): an access of at least one byte whose aligned mark passes the ceiling. -/
def PassesCeiling (i : Instr) (s : State) : Prop :=
  ∃ addr n, accessOf i s.stack = some (addr, n) ∧ 0 < n ∧ s.memCeiling < markFor addr n

/-- The cause of InvalidJumpDestination (R185): a jump taken, to a destination outside the set. -/
def JumpsOutside (i : Instr) (s : State) : Prop :=
  ∃ (dest : Word) (below : List Word), s.stack = dest :: below ∧ isValidTarget s.code dest = false ∧
    (i = .jump ∨ i = .jumpi ∧ ∃ cond rest, below = cond :: rest ∧ cond ≠ 0)

/-- What the instruction `i` takes each fault kind for. An instruction that was decoded never takes InvalidOpcode (R184). -/
def FaultCause (i : Instr) (s : State) : FaultKind → Prop
  | .stackUnderflow => s.stack.length < i.needs
  | .stackOverflow => i.grows = true ∧ i.needs ≤ s.stack.length ∧ 1024 ≤ s.stack.length
  | .memoryLimitExceeded => PassesCeiling i s
  | .invalidOpcode => False
  | .invalidJumpDestination => JumpsOutside i s

/-- In the state `s` the instruction `i` takes the faults it has a cause for, and no other. -/
def FaultsExactly (i : Instr) (s : State) : Prop := ∀ k, Raises i s k ↔ FaultCause i s k

/-- The instructions that neither access memory nor jump. -/
def stackOnly : Instr → Bool
  | .mload | .mstore | .mstore8 | .revert | .jump | .jumpi => false
  | _ => true

/-- An instruction takes at most one fault. -/
theorem raises_inj {i : Instr} {s : State} {j k : FaultKind} (hj : Raises i s j) (hk : Raises i s k) : j = k :=
  Option.some.inj (congrArg State.faultKind (Host.Outcome.next.inj (hj.symm.trans hk)))

theorem not_raises {i : Instr} {s t : State} (h : exec i s = .next t) (ht : ∀ k, t ≠ faultState k s) (k : FaultKind) :
    ¬Raises i s k :=
  fun hk => ht k (Host.Outcome.next.inj (h.symm.trans hk))

/-- An instruction that moves `pc` took no fault. -/
theorem not_raises_of_pc_ne {i : Instr} {s t : State} (h : exec i s = .next t) (ht : t.pc ≠ s.pc) (k : FaultKind) :
    ¬Raises i s k :=
  not_raises h (by rintro k rfl; exact ht rfl) k

/-- An instruction that takes entries from the stack took no fault. -/
theorem not_raises_of_length_lt {i : Instr} {s t : State} (h : exec i s = .next t) (ht : t.stack.length < s.stack.length)
    (k : FaultKind) : ¬Raises i s k :=
  not_raises h (by rintro k rfl; exact absurd ht (Nat.lt_irrefl _)) k

/-- What an instruction takes its faults for, from what it does with a cause of each kind and with none: since it takes at most
one fault, none of the causes need be compared with another. -/
theorem faultsExactly_of_causes {i : Instr} {s : State}
    (hshort : s.stack.length < i.needs → Raises i s .stackUnderflow)
    (hfull : i.grows = true → i.needs ≤ s.stack.length → 1024 ≤ s.stack.length → Raises i s .stackOverflow)
    (hlimit : PassesCeiling i s → Raises i s .memoryLimitExceeded)
    (hjump : JumpsOutside i s → Raises i s .invalidJumpDestination)
    (hnone : (∀ k, ¬FaultCause i s k) → ∀ k, ¬Raises i s k) : FaultsExactly i s := by
  have raises_of_cause : ∀ k, FaultCause i s k → Raises i s k
    | .stackUnderflow, h => hshort h
    | .stackOverflow, ⟨hgrows, hneeds, hlen⟩ => hfull hgrows hneeds hlen
    | .memoryLimitExceeded, h => hlimit h
    | .invalidJumpDestination, h => hjump h
  refine fun k => ⟨fun hk => ?_, raises_of_cause k⟩
  by_cases hcause : ∃ j, FaultCause i s j
  · obtain ⟨j, hj⟩ := hcause
    exact raises_inj (raises_of_cause j hj) hk ▸ hj
  · exact absurd hk (hnone (not_exists.mp hcause) k)

/-! The instructions that use the stack only. -/

theorem accessOf_of_stackOnly {i : Instr} (hi : stackOnly i = true) (stack : List Word) : accessOf i stack = none := by
  have isNot : ∀ j, stackOnly j = false → i ≠ j := by
    rintro j hj rfl
    exact absurd (hi.symm.trans hj) (by decide)
  simp [accessOf, isNot .mload rfl, isNot .mstore rfl, isNot .mstore8 rfl, isNot .revert rfl]

theorem not_passesCeiling_of_stackOnly {i : Instr} (hi : stackOnly i = true) (s : State) : ¬PassesCeiling i s := by
  rintro ⟨addr, n, haccess, -⟩
  rw [accessOf_of_stackOnly hi] at haccess
  cases haccess

theorem eq_jump_or_jumpi {i : Instr} {s : State} (h : JumpsOutside i s) : i = .jump ∨ i = .jumpi := by
  obtain ⟨_, _, -, -, hi⟩ := h
  exact hi.imp_right And.left

theorem not_jumpsOutside_of_stackOnly {i : Instr} (hi : stackOnly i = true) (s : State) : ¬JumpsOutside i s := by
  intro h
  obtain rfl | rfl := eq_jump_or_jumpi h <;> cases hi

/-- An instruction that uses the stack only takes at most StackUnderflow and StackOverflow. -/
theorem faultsExactly_of_stackOnly {i : Instr} {s : State} (hi : stackOnly i = true)
    (hshort : s.stack.length < i.needs → Raises i s .stackUnderflow)
    (hfull : i.grows = true → i.needs ≤ s.stack.length → 1024 ≤ s.stack.length → Raises i s .stackOverflow)
    (hdone : i.needs ≤ s.stack.length → (i.grows = true → s.stack.length < 1024) → ∀ k, ¬Raises i s k) :
    FaultsExactly i s := by
  refine faultsExactly_of_causes hshort hfull (fun h => absurd h (not_passesCeiling_of_stackOnly hi s))
    (fun h => absurd h (not_jumpsOutside_of_stackOnly hi s)) fun hnone => ?_
  have hneeds : i.needs ≤ s.stack.length := Nat.not_lt.mp (hnone .stackUnderflow)
  exact hdone hneeds fun hgrows => Nat.not_le.mp fun hlen => hnone .stackOverflow ⟨hgrows, hneeds, hlen⟩

/-- An instruction of the stack that leaves no more entries than it found takes at most StackUnderflow. -/
theorem faultsExactly_of_pops {i : Instr} {s : State} (hi : stackOnly i = true) (hgrows : i.grows = false)
    (hshort : s.stack.length < i.needs → Raises i s .stackUnderflow)
    (hdone : ¬s.stack.length < i.needs → ∀ k, ¬Raises i s k) : FaultsExactly i s :=
  faultsExactly_of_stackOnly hi hshort (fun h => absurd (hgrows.symm.trans h) (by decide))
    fun hneeds _ => hdone (Nat.not_lt.mpr hneeds)

theorem faultsExactly_of_unaryOp {i : Instr} {s : State} {op : Word → Word} (hexec : exec i s = unaryOp op s)
    (hneeds : i.needs = 1) (hi : stackOnly i = true) (hgrows : i.grows = false) : FaultsExactly i s := by
  refine faultsExactly_of_pops hi hgrows (fun h => ?_) fun h => ?_ <;> rw [hneeds] at h
  · exact hexec.trans (unaryOp_short h)
  · obtain ⟨a, below, hs⟩ := stack_one h
    exact not_raises_of_pc_ne (hexec.trans (unaryOp_cons hs)) (by simp)

theorem faultsExactly_of_binaryOp {i : Instr} {s : State} {op : Word → Word → Word} (hexec : exec i s = binaryOp op s)
    (hneeds : i.needs = 2) (hi : stackOnly i = true) (hgrows : i.grows = false) : FaultsExactly i s := by
  refine faultsExactly_of_pops hi hgrows (fun h => ?_) fun h => ?_ <;> rw [hneeds] at h
  · exact hexec.trans (binaryOp_short h)
  · obtain ⟨b, a, below, hs⟩ := stack_two h
    exact not_raises_of_pc_ne (hexec.trans (binaryOp_cons hs)) (by simp)

theorem faultsExactly_of_ternaryOp {i : Instr} {s : State} {op : Word → Word → Word → Word}
    (hexec : exec i s = ternaryOp op s) (hneeds : i.needs = 3) (hi : stackOnly i = true) (hgrows : i.grows = false) :
    FaultsExactly i s := by
  refine faultsExactly_of_pops hi hgrows (fun h => ?_) fun h => ?_ <;> rw [hneeds] at h
  · exact hexec.trans (ternaryOp_short h)
  · obtain ⟨m, y, x, below, hs⟩ := stack_three h
    exact not_raises_of_pc_ne (hexec.trans (ternaryOp_cons hs)) (by simp)

theorem faultsExactly_of_pushOp {i : Instr} {s : State} {n : Nat} {w : Word} (hexec : exec i s = pushOp n w s)
    (hneeds : i.needs = 0) (hi : stackOnly i = true) (hgrows : i.grows = true) : FaultsExactly i s := by
  refine faultsExactly_of_stackOnly hi (fun h => ?_) (fun _ _ hfull => hexec.trans (pushOp_full hfull)) fun _ hroom => ?_
  · omega
  · exact not_raises_of_pc_ne (hexec.trans (pushOp_room (hroom hgrows))) (by simp; omega)

theorem faultsExactly_of_dupDepth {i : Instr} {s : State} {d : Nat} (hexec : exec i s = dupDepth d s)
    (hneeds : i.needs = d + 1) (hi : stackOnly i = true) (hgrows : i.grows = true) : FaultsExactly i s := by
  refine faultsExactly_of_stackOnly hi (fun h => ?_) (fun _ hd hfull => ?_) fun hd hroom => ?_
  · exact hexec.trans (dupDepth_short (hneeds ▸ h))
  · exact hexec.trans (dupDepth_full (hneeds ▸ hd) hfull)
  · have hw : s.stack[d]? = some (s.stack[d]'(by omega)) := List.getElem?_eq_getElem (by omega)
    exact not_raises_of_pc_ne (hexec.trans (dupDepth_ok hw (hroom hgrows))) (by simp)

theorem faultsExactly_of_swapDepth {i : Instr} {s : State} {d : Nat} (hexec : exec i s = swapDepth d s)
    (hneeds : i.needs = d + 1) (hi : stackOnly i = true) (hgrows : i.grows = false) : FaultsExactly i s := by
  refine faultsExactly_of_pops hi hgrows (fun h => ?_) fun h => ?_
  · exact hexec.trans (swapDepth_short (hneeds ▸ h))
  · have htop : s.stack[0]? = some (s.stack[0]'(by omega)) := List.getElem?_eq_getElem (by omega)
    have hdeep : s.stack[d]? = some (s.stack[d]'(by omega)) := List.getElem?_eq_getElem (by omega)
    exact not_raises_of_pc_ne (hexec.trans (swapDepth_ok htop hdeep)) (by simp)

theorem faultsExactly_pop (s : State) : FaultsExactly .pop s := by
  refine faultsExactly_of_pops rfl rfl execPop_short fun h => ?_
  obtain ⟨a, below, hs⟩ := stack_one h
  exact not_raises_of_pc_ne (execPop_cons hs) (by simp)

theorem faultsExactly_jumpdest (s : State) : FaultsExactly .jumpdest s :=
  faultsExactly_of_pops rfl rfl (fun h => absurd h (Nat.not_lt_zero _)) fun _ =>
    not_raises_of_pc_ne (execJumpdest_eq s) (by simp)

theorem faultsExactly_stop (s : State) : FaultsExactly .stop s :=
  faultsExactly_of_pops rfl rfl (fun h => absurd h (Nat.not_lt_zero _)) fun _ =>
    not_raises (execStop_eq s) fun _ he => absurd (congrArg State.runState he) (by simp [haltState])

/-! The instructions that access memory. -/

/-- A range of memory is accessed only where the operands are there. -/
theorem needs_le_of_accessOf {i : Instr} {stack : List Word} {range : Nat × Nat} (h : accessOf i stack = some range) :
    i.needs ≤ stack.length := by
  unfold accessOf at h
  split at h
  · next hi =>
    obtain ⟨offset, hoffset, -⟩ := Option.map_eq_some_iff.mp h
    exact hi ▸ (List.getElem?_eq_some_iff.mp hoffset).1
  split at h
  · next hi => exact hi.1 ▸ hi.2
  split at h
  · next hi => exact hi.1 ▸ hi.2
  split at h
  · next hi =>
    split at h
    · simp [hi, Instr.needs]
    · cases h
  · cases h

/-- An instruction whose operands name a range of memory takes at most StackUnderflow and MemoryLimitExceeded. -/
theorem faultsExactly_of_access {i : Instr} {s : State} (hgrows : i.grows = false) (hjump : i ≠ .jump) (hjumpi : i ≠ .jumpi)
    (hshort : s.stack.length < i.needs → Raises i s .stackUnderflow)
    (haccess : ¬s.stack.length < i.needs → ∃ addr n, accessOf i s.stack = some (addr, n) ∧
      (0 < n → s.memCeiling < markFor addr n → Raises i s .memoryLimitExceeded) ∧
      ((0 < n → markFor addr n ≤ s.memCeiling) → ∀ k, ¬Raises i s k)) : FaultsExactly i s := by
  refine faultsExactly_of_causes hshort (fun h => absurd (hgrows.symm.trans h) (by decide)) ?_
    (fun h => ((eq_jump_or_jumpi h).elim hjump hjumpi).elim) fun hnone => ?_
  · rintro ⟨addr, n, hrange, hn, hlt⟩
    obtain ⟨addr', n', hrange', hlimit, -⟩ := haccess (Nat.not_lt.mpr (needs_le_of_accessOf hrange))
    cases hrange'.symm.trans hrange
    exact hlimit hn hlt
  · obtain ⟨addr, n, hrange, -, hdone⟩ := haccess (hnone .stackUnderflow)
    exact hdone fun hn => Nat.not_lt.mp fun hlt => hnone .memoryLimitExceeded ⟨addr, n, hrange, hn, hlt⟩

theorem faultsExactly_mload (s : State) : FaultsExactly .mload s := by
  refine faultsExactly_of_access rfl (by simp) (by simp) execMload_short fun h => ?_
  obtain ⟨offset, below, hs⟩ := stack_one h
  refine ⟨offset.toNat, 32, by simp [accessOf, hs], fun _ => execMload_limit hs, fun hle => ?_⟩
  exact not_raises_of_pc_ne (execMload_ok hs (hle (by decide))) (by simp)

theorem faultsExactly_mstore (s : State) : FaultsExactly .mstore s := by
  refine faultsExactly_of_access rfl (by simp) (by simp) execMstore_short fun h => ?_
  obtain ⟨offset, w, below, hs⟩ := stack_two h
  refine ⟨offset.toNat, 32, by simp [accessOf, hs], fun _ => execMstore_limit hs, fun hle => ?_⟩
  exact not_raises_of_pc_ne (execMstore_ok hs (hle (by decide))) (by simp)

theorem faultsExactly_mstore8 (s : State) : FaultsExactly .mstore8 s := by
  refine faultsExactly_of_access rfl (by simp) (by simp) execMstore8_short fun h => ?_
  obtain ⟨offset, w, below, hs⟩ := stack_two h
  refine ⟨offset.toNat, 1, by simp [accessOf, hs], fun _ => execMstore8_limit hs, fun hle => ?_⟩
  exact not_raises_of_pc_ne (execMstore8_ok hs (hle (by decide))) (by simp)

theorem faultsExactly_revert (s : State) : FaultsExactly .revert s := by
  refine faultsExactly_of_access rfl (by simp) (by simp) execRevert_short fun h => ?_
  obtain ⟨offset, length, below, hs⟩ := stack_two h
  refine ⟨offset.toNat, length.toNat, by simp [accessOf, hs], fun hn => execRevert_limit hs hn.ne', fun hle => ?_⟩
  by_cases hn : length.toNat = 0
  · exact not_raises (execRevert_empty hs hn) fun _ he => absurd (congrArg State.runState he) (by simp)
  · exact not_raises (execRevert_ok hs hn (hle (by omega))) fun _ he => absurd (congrArg State.runState he) (by simp)

/-! JUMP and JUMPI. -/

/-- A destination is no valid target exactly when the scan did not record it. -/
theorem isValidTarget_eq_false_iff {code : List Byte} {t : Word} : isValidTarget code t = false ↔ t.toNat ∉ analyse code := by
  rw [← Bool.not_eq_true, isValidTarget_iff]

theorem jumpsOutside_jump {s : State} {dest : Word} {below : List Word} (hs : s.stack = dest :: below) :
    JumpsOutside .jump s ↔ dest.toNat ∉ analyse s.code := by
  simp [JumpsOutside, hs, isValidTarget_eq_false_iff]

theorem jumpsOutside_jumpi {s : State} {dest cond : Word} {below : List Word} (hs : s.stack = dest :: cond :: below) :
    JumpsOutside .jumpi s ↔ dest.toNat ∉ analyse s.code ∧ cond ≠ 0 := by
  simp [JumpsOutside, hs, isValidTarget_eq_false_iff]

/-- An instruction that jumps takes at most StackUnderflow and InvalidJumpDestination. -/
theorem faultsExactly_of_jump {i : Instr} {s : State} (hi : i = .jump ∨ i = .jumpi)
    (hshort : s.stack.length < i.needs → Raises i s .stackUnderflow)
    (hjump : ¬s.stack.length < i.needs →
      (JumpsOutside i s → Raises i s .invalidJumpDestination) ∧ (¬JumpsOutside i s → ∀ k, ¬Raises i s k)) :
    FaultsExactly i s := by
  have hgrows : ¬i.grows = true := by rcases hi with rfl | rfl <;> decide
  have haccess : accessOf i s.stack = none := by rcases hi with rfl | rfl <;> simp [accessOf]
  have hneeds : JumpsOutside i s → ¬s.stack.length < i.needs := by
    rintro ⟨dest, below, hs, -, rfl | ⟨rfl, cond, rest, rfl, -⟩⟩ <;> simp [hs, Instr.needs]
  refine faultsExactly_of_causes hshort (fun h => absurd h hgrows) ?_ (fun h => (hjump (hneeds h)).1 h) fun hnone => ?_
  · rintro ⟨addr, n, hrange, -⟩
    cases haccess.symm.trans hrange
  · exact (hjump (hnone .stackUnderflow)).2 (hnone .invalidJumpDestination)

theorem faultsExactly_jump (s : State) : FaultsExactly .jump s := by
  refine faultsExactly_of_jump (.inl rfl) execJump_short fun h => ?_
  obtain ⟨dest, below, hs⟩ := stack_one h
  rw [jumpsOutside_jump hs]
  refine ⟨execJump_invalid hs, fun hvalid => ?_⟩
  exact not_raises_of_length_lt (execJump_valid hs (not_not.mp hvalid)) (by simp [hs])

theorem faultsExactly_jumpi (s : State) : FaultsExactly .jumpi s := by
  refine faultsExactly_of_jump (.inr rfl) execJumpi_short fun h => ?_
  obtain ⟨dest, cond, below, hs⟩ := stack_two h
  rw [jumpsOutside_jumpi hs]
  refine ⟨fun ⟨hd, hc⟩ => execJumpi_invalid hs (BitVec.toNat_ne.mp hc) hd, fun hvalid => ?_⟩
  by_cases hc : cond = 0
  · exact not_raises_of_pc_ne (execJumpi_fallthrough hs (congrArg BitVec.toNat hc)) (by simp)
  · have hd : dest.toNat ∈ analyse s.code := by_contra fun hd => hvalid ⟨hd, hc⟩
    exact not_raises_of_length_lt (execJumpi_valid hs (BitVec.toNat_ne.mp hc) hd) (by simp [hs])

/-! Every instruction. -/

/-- Every instruction takes the faults it has a cause for, and no other. -/
theorem faultsExactly (i : Instr) (s : State) : FaultsExactly i s := by
  cases i
  case add | mul | sub | div | sdiv | mod | smod | exp | lt | gt | slt | sgt | eq | and | or | xor | byte | shl |
      shr | sar =>
    exact faultsExactly_of_binaryOp rfl rfl rfl rfl
  case iszero | not => exact faultsExactly_of_unaryOp rfl rfl rfl rfl
  case calldataload =>
    exact faultsExactly_of_unaryOp (op := fun i => wordOfBytes (callDataBytes s.callData i.toNat memWordBytes)) rfl rfl rfl rfl
  case addmod | mulmod => exact faultsExactly_of_ternaryOp rfl rfl rfl rfl
  case callvalue | calldatasize | codesize => exact faultsExactly_of_pushOp rfl rfl rfl rfl
  case push1 | push2 | push3 | push4 | push5 | push6 | push7 | push8 | push9 | push10 | push11 | push12 | push13 |
      push14 | push15 | push16 | push17 | push18 | push19 | push20 | push21 | push22 | push23 | push24 | push25 |
      push26 | push27 | push28 | push29 | push30 | push31 | push32 =>
    exact faultsExactly_of_pushOp rfl rfl rfl rfl
  case dup1 | dup2 | dup3 | dup4 | dup5 | dup6 | dup7 | dup8 | dup9 | dup10 | dup11 | dup12 | dup13 | dup14 |
      dup15 | dup16 =>
    exact faultsExactly_of_dupDepth rfl rfl rfl rfl
  case swap1 | swap2 | swap3 | swap4 | swap5 | swap6 | swap7 | swap8 | swap9 | swap10 | swap11 | swap12 | swap13 |
      swap14 | swap15 | swap16 =>
    exact faultsExactly_of_swapDepth rfl rfl rfl rfl
  case stop => exact faultsExactly_stop s
  case jumpdest => exact faultsExactly_jumpdest s
  case pop => exact faultsExactly_pop s
  case mload => exact faultsExactly_mload s
  case mstore => exact faultsExactly_mstore s
  case mstore8 => exact faultsExactly_mstore8 s
  case revert => exact faultsExactly_revert s
  case jump => exact faultsExactly_jump s
  case jumpi => exact faultsExactly_jumpi s

/-- Settles O54: the cause of StackUnderflow. -/
theorem underflowExactly : Obligations.UnderflowExactly := by
  unfold Obligations.UnderflowExactly
  exact fun i s => faultsExactly i s .stackUnderflow

/-- Settles O55: the cause of StackOverflow. -/
theorem overflowExactly : Obligations.OverflowExactly := by
  unfold Obligations.OverflowExactly
  exact fun i s => faultsExactly i s .stackOverflow

/-- Settles O56: the cause of MemoryLimitExceeded, which an access of no bytes is not, nor one within a mark that is within the
ceiling. -/
theorem memoryLimitExactly : Obligations.MemoryLimitExactly := by
  unfold Obligations.MemoryLimitExactly
  refine ⟨fun i s => faultsExactly i s .memoryLimitExceeded, fun i s addr n hrange hmark hwithin hraises => ?_⟩
  obtain ⟨addr', n', hrange', hn, hlt⟩ := (faultsExactly i s .memoryLimitExceeded).mp hraises
  cases hrange.symm.trans hrange'
  omega

/-- Settles O57: the cause of InvalidJumpDestination; the scan records boundaries only. -/
theorem invalidJumpExactly : Obligations.InvalidJumpExactly := by
  unfold Obligations.InvalidJumpExactly
  exact ⟨fun i s => faultsExactly i s .invalidJumpDestination,
    fun _ _ hb => isValidTarget_eq_false_iff.mpr fun hd => hb (boundary_of_mem_analyse hd)⟩

/-! InvalidOpcode (R184). -/

/-- An unassigned byte is fetched only within the code: past the end the fetched byte is that of STOP. -/
theorem getElem?_of_fetchByte_unassigned {code : List Byte} {pc : Nat} (h : unassignedByte (fetchByte code pc) = true) :
    code[pc]? = some (fetchByte code pc) :=
  getElem?_of_fetchByte rfl fun hop => absurd (hop ▸ h) (by decide)

/-- A step that takes InvalidOpcode fetched an unassigned byte: no instruction takes it. -/
theorem unassigned_of_step {s : State} (h : step s = .next (faultState .invalidOpcode s)) :
    ∃ op, s.code[s.pc]? = some op ∧ unassignedByte op = true := by
  obtain ⟨-, ⟨hbyte, -⟩ | ⟨i, -, hraises, -⟩⟩ := step_cases h
  · exact ⟨_, getElem?_of_fetchByte_unassigned hbyte, hbyte⟩
  · exact ((faultsExactly i s .invalidOpcode).mp hraises).elim

theorem step_unassigned {s : State} {op : Byte} (hr : s.runState = .running) (hbyte : s.code[s.pc]? = some op)
    (hop : unassignedByte op = true) : step s = .next (faultState .invalidOpcode s) := by
  rw [step_running hr, fetchBytes, fetchByte_of_some hbyte, decode_cons_of_none ((table_none_iff op).mpr hop)]

/-- What a run from launch of `code` keeps: the invariant, the code, and an unassigned byte at `pc` once InvalidOpcode was taken. -/
structure StopsAtUnassigned (code : List Byte) (s : State) : Prop where
  inv : RunInv s
  code_eq : s.code = code
  unassigned : s.faultKind = some .invalidOpcode → ∃ op, s.code[s.pc]? = some op ∧ unassignedByte op = true

theorem stopsAtUnassigned_launch (ceiling : Nat) (code callData : List Byte) (callValue : Word) :
    StopsAtUnassigned code (State.launch ceiling code callData callValue) where
  inv := launch_runInv ceiling code callData callValue
  code_eq := rfl
  unassigned := by simp

theorem stopsAtUnassigned_step {code : List Byte} (s t : State) (h : StopsAtUnassigned code s) (hstep : step s = .next t) :
    StopsAtUnassigned code t where
  inv := stepKeepsInvariant s t h.inv hstep
  code_eq := (launchInputsNeverChange s t hstep).1.trans h.code_eq
  unassigned := fun hk => by
    have ht : t.runState = .faulted := (stepKeepsInvariant s t h.inv hstep).fault_iff.mpr (by simp [hk])
    obtain ⟨k, rfl⟩ := step_to_faulted hstep ht
    obtain rfl : k = .invalidOpcode := Option.some.inj hk
    exact unassigned_of_step (s := s) hstep

/-- Settles O58: a step by its fetched byte; a run keeps that its faulting byte is unassigned and `pc` a boundary. -/
theorem invalidOpcodeExactly : Obligations.InvalidOpcodeExactly := by
  unfold Obligations.InvalidOpcodeExactly
  refine ⟨fun s hr => ⟨unassigned_of_step, fun ⟨op, hbyte, hop⟩ => step_unassigned hr hbyte hop⟩, ?_⟩
  intro fuel ceiling code callData callValue s hk
  have h : StopsAtUnassigned code s :=
    runFor_induction stopsAtUnassigned_step fuel (stopsAtUnassigned_launch ceiling code callData callValue)
  exact ⟨h.code_eq ▸ h.inv.boundary, h.code_eq ▸ h.unassigned hk⟩

end Sys2Proof.Proofs
end
